-- ==== Sys2Proof/Word.lean ====
section
/-! DEFINITION. The word types of the machine: bytes, 16-bit words, register and key numbers. -/

namespace Sys2Proof

/-- An 8-bit unsigned value: a general register (10_state.md R20), a memory byte (20_memory.md R50),
a timer (10_state.md R28). -/
abbrev Byte := BitVec 8

/-- A 16-bit unsigned value: `pc` (10_state.md R23), `I` (R26), a call-stack entry (R30), an
instruction word (30_encoding.md R70). -/
abbrev Word := BitVec 16

/-- The number of a general register, 0 to 15; 15 is VF (10_state.md R20, R21). -/
abbrev RegIdx := Fin 16

/-- The number of a key, 0 to 15 (10_state.md R32). -/
abbrev KeyIdx := Fin 16

end Sys2Proof
end

