-- ==== Sys2Proof/Config.lean ====
section
/-! DEFINITION. The values the hardware leaves open: the random byte of a STEP. -/

namespace Sys2Proof.Config

/-- The bytes that the environment's opaque random source hands to RND when no STEP operand is given
by name (00_scope.md R6, 41_load_alu.md R132): the k-th draw. It has no body, so nothing can be proved
about a draw but that it is a byte. DESIGN CHOICE, log 3 (safe). -/
opaque rndByte : Nat → Byte

end Sys2Proof.Config
end

