-- ==== Sys2Proof/Syntax.lean ====
section
/-! DEFINITION. The instruction set: one constructor for each row of spec/opcode_table.json
(30_encoding.md R74), with the operands of 30_encoding.md R71 and R73. -/

namespace Sys2Proof

/-- The 34 instructions. A register operand is its number, `nn` an 8-bit literal, `nnn` a 12-bit
literal, `n` a 4-bit literal; none is sign-extended or scaled (30_encoding.md R72). -/
inductive Instr where
  /-- 00E0, 43_display.md R151. -/
  | cls
  /-- 00EE, 40_control_flow.md R102. -/
  | ret
  /-- 1nnn, 40_control_flow.md R103. -/
  | jp (nnn : BitVec 12)
  /-- 2nnn, 40_control_flow.md R104. -/
  | call (nnn : BitVec 12)
  /-- 3xnn, 40_control_flow.md R105. -/
  | seImm (x : RegIdx) (nn : Byte)
  /-- 4xnn, 40_control_flow.md R106. -/
  | sneImm (x : RegIdx) (nn : Byte)
  /-- 5xy0, 40_control_flow.md R107. -/
  | seReg (x y : RegIdx)
  /-- 6xnn, 41_load_alu.md R121. -/
  | ldImm (x : RegIdx) (nn : Byte)
  /-- 7xnn, 41_load_alu.md R122. -/
  | addImm (x : RegIdx) (nn : Byte)
  /-- 8xy0, 41_load_alu.md R123. -/
  | ldReg (x y : RegIdx)
  /-- 8xy1, 41_load_alu.md R124. -/
  | orReg (x y : RegIdx)
  /-- 8xy2, 41_load_alu.md R125. -/
  | andReg (x y : RegIdx)
  /-- 8xy3, 41_load_alu.md R126. -/
  | xorReg (x y : RegIdx)
  /-- 8xy4, 41_load_alu.md R127. -/
  | addReg (x y : RegIdx)
  /-- 8xy5, 41_load_alu.md R128. -/
  | subReg (x y : RegIdx)
  /-- 8xy6, 41_load_alu.md R129. The word has a `y` field that the instruction does not use
  (30_encoding.md R73); it is kept so that no bit of the word is lost. -/
  | shr (x y : RegIdx)
  /-- 8xy7, 41_load_alu.md R130. -/
  | subnReg (x y : RegIdx)
  /-- 8xyE, 41_load_alu.md R131. The `y` field is unused, as in `shr`. -/
  | shl (x y : RegIdx)
  /-- 9xy0, 40_control_flow.md R108. -/
  | sneReg (x y : RegIdx)
  /-- Annn, 42_index_memory.md R140. -/
  | ldI (nnn : BitVec 12)
  /-- Bnnn, 40_control_flow.md R109. -/
  | jpV0 (nnn : BitVec 12)
  /-- Cxnn, 41_load_alu.md R132. -/
  | rnd (x : RegIdx) (nn : Byte)
  /-- Dxyn, 43_display.md R152. -/
  | drw (x y : RegIdx) (n : BitVec 4)
  /-- Ex9E, 44_keys_timers.md R161. -/
  | skp (x : RegIdx)
  /-- ExA1, 44_keys_timers.md R162. -/
  | sknp (x : RegIdx)
  /-- Fx07, 44_keys_timers.md R164. -/
  | ldVxDT (x : RegIdx)
  /-- Fx0A, 44_keys_timers.md R163. -/
  | ldVxK (x : RegIdx)
  /-- Fx15, 44_keys_timers.md R165. -/
  | ldDTVx (x : RegIdx)
  /-- Fx18, 44_keys_timers.md R166. -/
  | ldSTVx (x : RegIdx)
  /-- Fx1E, 42_index_memory.md R141. -/
  | addI (x : RegIdx)
  /-- Fx29, 42_index_memory.md R142. -/
  | ldF (x : RegIdx)
  /-- Fx33, 42_index_memory.md R143. -/
  | ldB (x : RegIdx)
  /-- Fx55, 42_index_memory.md R144. -/
  | ldMemVx (x : RegIdx)
  /-- Fx65, 42_index_memory.md R145. -/
  | ldVxMem (x : RegIdx)
deriving DecidableEq, Repr

end Sys2Proof
end

