-- ==== Sys2Proof/WellFormed.lean ====
section
/-! DEFINITION. Well-formed instructions: the assembler terms of 30_encoding.md R77, whose operands
are plain numerals, and the check that turns such a term into an instruction or refuses it. -/

namespace Sys2Proof

/-- The mnemonics of 30_encoding.md R74 and R77. -/
inductive Mnemonic where
  | CLS | RET | JP | CALL | SE | SNE | LD | ADD | OR | AND | XOR | SUB | SHR | SUBN | SHL
  | RND | DRW | SKP | SKNP
deriving DecidableEq, Repr

/-- An operand as it is written: a register `Vk`, a numeral, or one of the literal operand names that
select an instruction (30_encoding.md R77). -/
inductive Operand where
  | v (k : Nat)
  | num (k : Nat)
  | I | DT | ST | K | F | B
  /-- The operand `[I]`: memory at the index register. -/
  | memI
deriving DecidableEq, Repr

/-- An assembly line: a mnemonic, then its operands. -/
structure Asm where
  mnemonic : Mnemonic
  operands : List Operand
deriving DecidableEq, Repr

/-- A register number is one hexadecimal digit, 0 to 15 (10_state.md R20). -/
def regOperand (k : Nat) : Option RegIdx := if h : k < 16 then some ⟨k, h⟩ else none

/-- `nn` has 8 bits (30_encoding.md R71). -/
def literal8 (k : Nat) : Option Byte := if k < 256 then some (BitVec.ofNat 8 k) else none

/-- `nnn` has 12 bits (30_encoding.md R71). -/
def literal12 (k : Nat) : Option (BitVec 12) := if k < 4096 then some (BitVec.ofNat 12 k) else none

/-- `n` has 4 bits (30_encoding.md R71). -/
def literal4 (k : Nat) : Option (BitVec 4) := if k < 16 then some (BitVec.ofNat 4 k) else none

/-- The instruction an assembly line stands for, or `none` where the line is ill-formed: an operand
out of its field's range, or a mnemonic with operands it does not take. `SHR Vx` and `SHL Vx` are
assembled with y = 0, and `SHR Vx, Vy` sets the unused field (30_encoding.md R77). R77 is silent on
`SHL Vx, Vy`: that it is accepted too, in the same way, is the model's DESIGN CHOICE (log 7, safe). -/
def assemble : Asm → Option Instr
  | ⟨.CLS, []⟩ => some .cls
  | ⟨.RET, []⟩ => some .ret
  | ⟨.JP, [.num a]⟩ => (literal12 a).map .jp
  | ⟨.JP, [.v 0, .num a]⟩ => (literal12 a).map .jpV0
  | ⟨.CALL, [.num a]⟩ => (literal12 a).map .call
  | ⟨.SE, [.v x, .num b]⟩ => do some (.seImm (← regOperand x) (← literal8 b))
  | ⟨.SE, [.v x, .v y]⟩ => do some (.seReg (← regOperand x) (← regOperand y))
  | ⟨.SNE, [.v x, .num b]⟩ => do some (.sneImm (← regOperand x) (← literal8 b))
  | ⟨.SNE, [.v x, .v y]⟩ => do some (.sneReg (← regOperand x) (← regOperand y))
  | ⟨.LD, [.v x, .num b]⟩ => do some (.ldImm (← regOperand x) (← literal8 b))
  | ⟨.LD, [.v x, .v y]⟩ => do some (.ldReg (← regOperand x) (← regOperand y))
  | ⟨.LD, [.I, .num a]⟩ => (literal12 a).map .ldI
  | ⟨.LD, [.v x, .DT]⟩ => (regOperand x).map .ldVxDT
  | ⟨.LD, [.v x, .K]⟩ => (regOperand x).map .ldVxK
  | ⟨.LD, [.DT, .v x]⟩ => (regOperand x).map .ldDTVx
  | ⟨.LD, [.ST, .v x]⟩ => (regOperand x).map .ldSTVx
  | ⟨.LD, [.F, .v x]⟩ => (regOperand x).map .ldF
  | ⟨.LD, [.B, .v x]⟩ => (regOperand x).map .ldB
  | ⟨.LD, [.memI, .v x]⟩ => (regOperand x).map .ldMemVx
  | ⟨.LD, [.v x, .memI]⟩ => (regOperand x).map .ldVxMem
  | ⟨.ADD, [.v x, .num b]⟩ => do some (.addImm (← regOperand x) (← literal8 b))
  | ⟨.ADD, [.v x, .v y]⟩ => do some (.addReg (← regOperand x) (← regOperand y))
  | ⟨.ADD, [.I, .v x]⟩ => (regOperand x).map .addI
  | ⟨.OR, [.v x, .v y]⟩ => do some (.orReg (← regOperand x) (← regOperand y))
  | ⟨.AND, [.v x, .v y]⟩ => do some (.andReg (← regOperand x) (← regOperand y))
  | ⟨.XOR, [.v x, .v y]⟩ => do some (.xorReg (← regOperand x) (← regOperand y))
  | ⟨.SUB, [.v x, .v y]⟩ => do some (.subReg (← regOperand x) (← regOperand y))
  | ⟨.SUBN, [.v x, .v y]⟩ => do some (.subnReg (← regOperand x) (← regOperand y))
  | ⟨.SHR, [.v x]⟩ => (regOperand x).map fun r => .shr r 0
  | ⟨.SHR, [.v x, .v y]⟩ => do some (.shr (← regOperand x) (← regOperand y))
  | ⟨.SHL, [.v x]⟩ => (regOperand x).map fun r => .shl r 0
  | ⟨.SHL, [.v x, .v y]⟩ => do some (.shl (← regOperand x) (← regOperand y))
  | ⟨.RND, [.v x, .num b]⟩ => do some (.rnd (← regOperand x) (← literal8 b))
  | ⟨.DRW, [.v x, .v y, .num k]⟩ => do
      some (.drw (← regOperand x) (← regOperand y) (← literal4 k))
  | ⟨.SKP, [.v x]⟩ => (regOperand x).map .skp
  | ⟨.SKNP, [.v x]⟩ => (regOperand x).map .sknp
  | _ => none

/-- The assembly line of an instruction (30_encoding.md R74, R77), every field written out; for SHL with
its unused `y` that is a spelling of the model's own (DESIGN CHOICE, log 7, safe). -/
def disassemble : Instr → Asm
  | .cls => ⟨.CLS, []⟩
  | .ret => ⟨.RET, []⟩
  | .jp a => ⟨.JP, [.num a.toNat]⟩
  | .call a => ⟨.CALL, [.num a.toNat]⟩
  | .seImm x b => ⟨.SE, [.v x, .num b.toNat]⟩
  | .sneImm x b => ⟨.SNE, [.v x, .num b.toNat]⟩
  | .seReg x y => ⟨.SE, [.v x, .v y]⟩
  | .ldImm x b => ⟨.LD, [.v x, .num b.toNat]⟩
  | .addImm x b => ⟨.ADD, [.v x, .num b.toNat]⟩
  | .ldReg x y => ⟨.LD, [.v x, .v y]⟩
  | .orReg x y => ⟨.OR, [.v x, .v y]⟩
  | .andReg x y => ⟨.AND, [.v x, .v y]⟩
  | .xorReg x y => ⟨.XOR, [.v x, .v y]⟩
  | .addReg x y => ⟨.ADD, [.v x, .v y]⟩
  | .subReg x y => ⟨.SUB, [.v x, .v y]⟩
  | .shr x y => ⟨.SHR, [.v x, .v y]⟩
  | .subnReg x y => ⟨.SUBN, [.v x, .v y]⟩
  | .shl x y => ⟨.SHL, [.v x, .v y]⟩
  | .sneReg x y => ⟨.SNE, [.v x, .v y]⟩
  | .ldI a => ⟨.LD, [.I, .num a.toNat]⟩
  | .jpV0 a => ⟨.JP, [.v 0, .num a.toNat]⟩
  | .rnd x b => ⟨.RND, [.v x, .num b.toNat]⟩
  | .drw x y k => ⟨.DRW, [.v x, .v y, .num k.toNat]⟩
  | .skp x => ⟨.SKP, [.v x]⟩
  | .sknp x => ⟨.SKNP, [.v x]⟩
  | .ldVxDT x => ⟨.LD, [.v x, .DT]⟩
  | .ldVxK x => ⟨.LD, [.v x, .K]⟩
  | .ldDTVx x => ⟨.LD, [.DT, .v x]⟩
  | .ldSTVx x => ⟨.LD, [.ST, .v x]⟩
  | .addI x => ⟨.ADD, [.I, .v x]⟩
  | .ldF x => ⟨.LD, [.F, .v x]⟩
  | .ldB x => ⟨.LD, [.B, .v x]⟩
  | .ldMemVx x => ⟨.LD, [.memI, .v x]⟩
  | .ldVxMem x => ⟨.LD, [.v x, .memI]⟩

/-- An assembly line is well-formed when the assembler accepts it. -/
def Asm.wellFormed (a : Asm) : Bool := (assemble a).isSome

/-- An instruction is well-formed when its own assembly line assembles to it. The operand types admit
exactly the values of 30_encoding.md R71's fields, so every `Instr` is well-formed
(`Laws.AsmRoundTrip`); the ill-formed terms are among the assembly lines (log 7). -/
def Instr.wellFormed (i : Instr) : Bool := assemble (disassemble i) == some i

end Sys2Proof
end

