-- ==== Sys2Proof/Decode.lean ====
section
/-! DEFINITION. The decoder (30_encoding.md R70 to R76), total on any bytes, and after it the encoder
and the opcode table of 30_encoding.md R74 as data. -/

namespace Sys2Proof

/-! ## Byte order and fields -/

/-- An instruction word from its two bytes, the byte at the lower address in bits 15 to 8
(20_memory.md R56). -/
def wordOfBytes (hi lo : Byte) : Word := hi ++ lo

/-- The two bytes of a word as the memory holds them, lower address first (20_memory.md R56). -/
def bytesOfWord (w : Word) : List Byte := [w.extractLsb' 8 8, w.extractLsb' 0 8]

/-- The opcode group `g`, w[15:12] (30_encoding.md R71). -/
def fieldG (w : Word) : BitVec 4 := w.extractLsb' 12 4

/-- The field `x`, w[11:8] (30_encoding.md R71). -/
def fieldX (w : Word) : RegIdx := (w.extractLsb' 8 4).toFin

/-- The field `y`, w[7:4] (30_encoding.md R71). -/
def fieldY (w : Word) : RegIdx := (w.extractLsb' 4 4).toFin

/-- The field `n`, w[3:0] (30_encoding.md R71). -/
def fieldN (w : Word) : BitVec 4 := w.extractLsb' 0 4

/-- The field `nn`, w[7:0] (30_encoding.md R71). -/
def fieldNN (w : Word) : Byte := w.extractLsb' 0 8

/-- The field `nnn`, w[11:0] (30_encoding.md R71). -/
def fieldNNN (w : Word) : BitVec 12 := w.extractLsb' 0 12

/-! ## The decoder -/

/-- Why bytes do not decode to an instruction. -/
inductive Reject where
  /-- The word matches no row of 30_encoding.md R74: the no-op of R76. It is no error of the machine:
  `step` runs it as 40_control_flow.md R101 says (safe, log 8). -/
  | decodeMiss (w : Word)
  /-- Fewer than the two bytes of an instruction word. `step` always has two (safe). -/
  | truncated
deriving DecidableEq, Repr

/-- Group 8, by its low nibble (30_encoding.md R74, R76). -/
def decodeGroup8 (w : Word) : Option Instr :=
  match fieldN w with
  | 0x0#4 => some (.ldReg (fieldX w) (fieldY w))
  | 0x1#4 => some (.orReg (fieldX w) (fieldY w))
  | 0x2#4 => some (.andReg (fieldX w) (fieldY w))
  | 0x3#4 => some (.xorReg (fieldX w) (fieldY w))
  | 0x4#4 => some (.addReg (fieldX w) (fieldY w))
  | 0x5#4 => some (.subReg (fieldX w) (fieldY w))
  | 0x6#4 => some (.shr (fieldX w) (fieldY w))
  | 0x7#4 => some (.subnReg (fieldX w) (fieldY w))
  | 0xE#4 => some (.shl (fieldX w) (fieldY w))
  | _ => none

/-- Group F, by its low byte (30_encoding.md R74, R76). -/
def decodeGroupF (w : Word) : Option Instr :=
  match fieldNN w with
  | 0x07#8 => some (.ldVxDT (fieldX w))
  | 0x0A#8 => some (.ldVxK (fieldX w))
  | 0x15#8 => some (.ldDTVx (fieldX w))
  | 0x18#8 => some (.ldSTVx (fieldX w))
  | 0x1E#8 => some (.addI (fieldX w))
  | 0x29#8 => some (.ldF (fieldX w))
  | 0x33#8 => some (.ldB (fieldX w))
  | 0x55#8 => some (.ldMemVx (fieldX w))
  | 0x65#8 => some (.ldVxMem (fieldX w))
  | _ => none

/-- The row of 30_encoding.md R74 that a word selects, with its fields cut out; `none` is a decode
miss. Every bit that a row's mask covers must match (R75; the spec's decisions D11 and D29, log 14). -/
def decodeRow (w : Word) : Option Instr :=
  match fieldG w with
  | 0x0#4 => if w = 0x00E0#16 then some .cls else if w = 0x00EE#16 then some .ret else none
  | 0x1#4 => some (.jp (fieldNNN w))
  | 0x2#4 => some (.call (fieldNNN w))
  | 0x3#4 => some (.seImm (fieldX w) (fieldNN w))
  | 0x4#4 => some (.sneImm (fieldX w) (fieldNN w))
  | 0x5#4 => if fieldN w = 0x0#4 then some (.seReg (fieldX w) (fieldY w)) else none
  | 0x6#4 => some (.ldImm (fieldX w) (fieldNN w))
  | 0x7#4 => some (.addImm (fieldX w) (fieldNN w))
  | 0x8#4 => decodeGroup8 w
  | 0x9#4 => if fieldN w = 0x0#4 then some (.sneReg (fieldX w) (fieldY w)) else none
  | 0xA#4 => some (.ldI (fieldNNN w))
  | 0xB#4 => some (.jpV0 (fieldNNN w))
  | 0xC#4 => some (.rnd (fieldX w) (fieldNN w))
  | 0xD#4 => some (.drw (fieldX w) (fieldY w) (fieldN w))
  | 0xE#4 => if fieldNN w = 0x9E#8 then some (.skp (fieldX w))
      else if fieldNN w = 0xA1#8 then some (.sknp (fieldX w)) else none
  | _ => decodeGroupF w  -- 0xF, the one group left

/-- Decode one instruction word, rejecting a decode miss by name. -/
def decodeWord (w : Word) : Except Reject Instr :=
  match decodeRow w with
  | some i => .ok i
  | none => .error (.decodeMiss w)

/-- Decode the first instruction of a list of bytes and give the bytes after it. Every instruction
is 2 bytes (30_encoding.md R70). -/
def decode : List Byte → Except Reject (Instr × List Byte)
  | hi :: lo :: rest => (decodeWord (wordOfBytes hi lo)).map fun i => (i, rest)
  | _ => .error .truncated

/-- The instruction the decoder reads from a word numbered as spec/opcode_table.json numbers it
(bit 0 the least significant bit): the word is laid out in bytes as the hardware stores it and
given to `decode`. -/
def decodeTableWord (nbits w : Nat) : Option Instr :=
  match decode (bytesOfWord (BitVec.ofNat 16 (w % 2 ^ nbits))) with
  | .ok (i, _) => some i
  | .error _ => none

/-! ## The encoder -/

/-- The bits of a register number in an instruction word (30_encoding.md R71). -/
def regBits (x : RegIdx) : BitVec 4 := BitVec.ofFin x

/-- Format XNN (30_encoding.md R73). -/
def formatXNN (g : BitVec 4) (x : RegIdx) (nn : Byte) : Word := g ++ (regBits x ++ nn)

/-- Format XY, and XYN with `n` a literal (30_encoding.md R73). -/
def formatXYN (g : BitVec 4) (x y : RegIdx) (n : BitVec 4) : Word :=
  g ++ (regBits x ++ (regBits y ++ n))

/-- Format NNN (30_encoding.md R73). -/
def formatNNN (g : BitVec 4) (nnn : BitVec 12) : Word := g ++ nnn

/-- The word of an instruction, from the patterns of 30_encoding.md R74. -/
def encode : Instr → Word
  | .cls => 0x00E0#16
  | .ret => 0x00EE#16
  | .jp a => formatNNN 0x1#4 a
  | .call a => formatNNN 0x2#4 a
  | .seImm x b => formatXNN 0x3#4 x b
  | .sneImm x b => formatXNN 0x4#4 x b
  | .seReg x y => formatXYN 0x5#4 x y 0x0#4
  | .ldImm x b => formatXNN 0x6#4 x b
  | .addImm x b => formatXNN 0x7#4 x b
  | .ldReg x y => formatXYN 0x8#4 x y 0x0#4
  | .orReg x y => formatXYN 0x8#4 x y 0x1#4
  | .andReg x y => formatXYN 0x8#4 x y 0x2#4
  | .xorReg x y => formatXYN 0x8#4 x y 0x3#4
  | .addReg x y => formatXYN 0x8#4 x y 0x4#4
  | .subReg x y => formatXYN 0x8#4 x y 0x5#4
  | .shr x y => formatXYN 0x8#4 x y 0x6#4
  | .subnReg x y => formatXYN 0x8#4 x y 0x7#4
  | .shl x y => formatXYN 0x8#4 x y 0xE#4
  | .sneReg x y => formatXYN 0x9#4 x y 0x0#4
  | .ldI a => formatNNN 0xA#4 a
  | .jpV0 a => formatNNN 0xB#4 a
  | .rnd x b => formatXNN 0xC#4 x b
  | .drw x y n => formatXYN 0xD#4 x y n
  | .skp x => formatXNN 0xE#4 x 0x9E#8
  | .sknp x => formatXNN 0xE#4 x 0xA1#8
  | .ldVxDT x => formatXNN 0xF#4 x 0x07#8
  | .ldVxK x => formatXNN 0xF#4 x 0x0A#8
  | .ldDTVx x => formatXNN 0xF#4 x 0x15#8
  | .ldSTVx x => formatXNN 0xF#4 x 0x18#8
  | .addI x => formatXNN 0xF#4 x 0x1E#8
  | .ldF x => formatXNN 0xF#4 x 0x29#8
  | .ldB x => formatXNN 0xF#4 x 0x33#8
  | .ldMemVx x => formatXNN 0xF#4 x 0x55#8
  | .ldVxMem x => formatXNN 0xF#4 x 0x65#8

/-! ## The opcode table as data -/

/-- One row of 30_encoding.md R74: a word `w` selects it iff `w & mask = bits`. The mnemonic is that of
spec/opcode_table.json. -/
structure OpcodeRow where
  mnemonic : String
  mask : Word
  bits : Word
deriving DecidableEq, Repr

/-- Whether a word selects a row (30_encoding.md R74). -/
def OpcodeRow.selects (r : OpcodeRow) (w : Word) : Bool := (w &&& r.mask) == r.bits

/-- Rows of 30_encoding.md R74, groups 0 to 7. -/
def opcodeRowsLow : List OpcodeRow := [
  ⟨"CLS", 0xFFFF#16, 0x00E0#16⟩,
  ⟨"RET", 0xFFFF#16, 0x00EE#16⟩,
  ⟨"JP_nnn", 0xF000#16, 0x1000#16⟩,
  ⟨"CALL_nnn", 0xF000#16, 0x2000#16⟩,
  ⟨"SE_Vx__nn", 0xF000#16, 0x3000#16⟩,
  ⟨"SNE_Vx__nn", 0xF000#16, 0x4000#16⟩,
  ⟨"SE_Vx__Vy", 0xF00F#16, 0x5000#16⟩,
  ⟨"LD_Vx__nn", 0xF000#16, 0x6000#16⟩,
  ⟨"ADD_Vx__nn", 0xF000#16, 0x7000#16⟩]

/-- Rows of 30_encoding.md R74, groups 8 and 9. -/
def opcodeRowsMid : List OpcodeRow := [
  ⟨"LD_Vx__Vy", 0xF00F#16, 0x8000#16⟩,
  ⟨"OR_Vx__Vy", 0xF00F#16, 0x8001#16⟩,
  ⟨"AND_Vx__Vy", 0xF00F#16, 0x8002#16⟩,
  ⟨"XOR_Vx__Vy", 0xF00F#16, 0x8003#16⟩,
  ⟨"ADD_Vx__Vy", 0xF00F#16, 0x8004#16⟩,
  ⟨"SUB_Vx__Vy", 0xF00F#16, 0x8005#16⟩,
  ⟨"SHR_Vx", 0xF00F#16, 0x8006#16⟩,
  ⟨"SUBN_Vx__Vy", 0xF00F#16, 0x8007#16⟩,
  ⟨"SHL_Vx", 0xF00F#16, 0x800E#16⟩,
  ⟨"SNE_Vx__Vy", 0xF00F#16, 0x9000#16⟩]

/-- Rows of 30_encoding.md R74, groups A to F. -/
def opcodeRowsHigh : List OpcodeRow := [
  ⟨"LD_I__nnn", 0xF000#16, 0xA000#16⟩,
  ⟨"JP_V0__nnn", 0xF000#16, 0xB000#16⟩,
  ⟨"RND_Vx__nn", 0xF000#16, 0xC000#16⟩,
  ⟨"DRW_Vx__Vy__n", 0xF000#16, 0xD000#16⟩,
  ⟨"SKP_Vx", 0xF0FF#16, 0xE09E#16⟩,
  ⟨"SKNP_Vx", 0xF0FF#16, 0xE0A1#16⟩,
  ⟨"LD_Vx__DT", 0xF0FF#16, 0xF007#16⟩,
  ⟨"LD_Vx__K", 0xF0FF#16, 0xF00A#16⟩,
  ⟨"LD_DT__Vx", 0xF0FF#16, 0xF015#16⟩,
  ⟨"LD_ST__Vx", 0xF0FF#16, 0xF018#16⟩,
  ⟨"ADD_I__Vx", 0xF0FF#16, 0xF01E#16⟩,
  ⟨"LD_F__Vx", 0xF0FF#16, 0xF029#16⟩,
  ⟨"LD_B__Vx", 0xF0FF#16, 0xF033#16⟩,
  ⟨"LD__I___Vx", 0xF0FF#16, 0xF055#16⟩,
  ⟨"LD_Vx___I", 0xF0FF#16, 0xF065#16⟩]

/-- The opcode map of 30_encoding.md R74, in the order of the table. -/
def opcodeTable : List OpcodeRow := opcodeRowsLow ++ opcodeRowsMid ++ opcodeRowsHigh

/-- The mnemonic of an instruction in spec/opcode_table.json. -/
def Instr.mnemonic : Instr → String
  | .cls => "CLS"
  | .ret => "RET"
  | .jp _ => "JP_nnn"
  | .call _ => "CALL_nnn"
  | .seImm _ _ => "SE_Vx__nn"
  | .sneImm _ _ => "SNE_Vx__nn"
  | .seReg _ _ => "SE_Vx__Vy"
  | .ldImm _ _ => "LD_Vx__nn"
  | .addImm _ _ => "ADD_Vx__nn"
  | .ldReg _ _ => "LD_Vx__Vy"
  | .orReg _ _ => "OR_Vx__Vy"
  | .andReg _ _ => "AND_Vx__Vy"
  | .xorReg _ _ => "XOR_Vx__Vy"
  | .addReg _ _ => "ADD_Vx__Vy"
  | .subReg _ _ => "SUB_Vx__Vy"
  | .shr _ _ => "SHR_Vx"
  | .subnReg _ _ => "SUBN_Vx__Vy"
  | .shl _ _ => "SHL_Vx"
  | .sneReg _ _ => "SNE_Vx__Vy"
  | .ldI _ => "LD_I__nnn"
  | .jpV0 _ => "JP_V0__nnn"
  | .rnd _ _ => "RND_Vx__nn"
  | .drw _ _ _ => "DRW_Vx__Vy__n"
  | .skp _ => "SKP_Vx"
  | .sknp _ => "SKNP_Vx"
  | .ldVxDT _ => "LD_Vx__DT"
  | .ldVxK _ => "LD_Vx__K"
  | .ldDTVx _ => "LD_DT__Vx"
  | .ldSTVx _ => "LD_ST__Vx"
  | .addI _ => "ADD_I__Vx"
  | .ldF _ => "LD_F__Vx"
  | .ldB _ => "LD_B__Vx"
  | .ldMemVx _ => "LD__I___Vx"
  | .ldVxMem _ => "LD_Vx___I"

end Sys2Proof
end

