-- ==== Sys2Proof/Machine/Font.lean ====
section
/-! DEFINITION. The parameter FONT of 00_scope.md R4, and the default that the spec gives it. -/

namespace Sys2Proof.Machine

/-- `FONT[0..79]`: the rows of the glyphs that RESET puts at addresses 0 to 79, each the 4 pixels of its
pattern. OPEN in the spec, a parameter of the model with a default (00_scope.md R4; 20_memory.md R64;
the spec's decision D17, log 2). -/
abbrev Font := Vector (BitVec 4) 80

/-- The byte `FONT[a]`: a glyph is 4 pixels wide, so the pattern sits in bits 7 to 4 and bits 3 to 0 are 0
(20_memory.md R64). -/
def Font.byte (font : Font) (a : Fin 80) : Byte := font[a] ++ 0#4

/-- The default table of 20_memory.md R64, 16 glyphs of 5 bytes, as the spec lists the bytes. -/
def fontGlyphs : List (List Byte) := [
  [0xF0, 0x90, 0x90, 0x90, 0xF0],
  [0x20, 0x60, 0x20, 0x20, 0x70],
  [0xF0, 0x10, 0xF0, 0x80, 0xF0],
  [0xF0, 0x10, 0xF0, 0x10, 0xF0],
  [0x90, 0x90, 0xF0, 0x10, 0x10],
  [0xF0, 0x80, 0xF0, 0x10, 0xF0],
  [0xF0, 0x80, 0xF0, 0x90, 0xF0],
  [0xF0, 0x10, 0x20, 0x40, 0x40],
  [0xF0, 0x90, 0xF0, 0x90, 0xF0],
  [0xF0, 0x90, 0xF0, 0x10, 0xF0],
  [0xF0, 0x90, 0xF0, 0x90, 0x90],
  [0xE0, 0x90, 0xE0, 0x90, 0xE0],
  [0xF0, 0x80, 0x80, 0x80, 0xF0],
  [0xE0, 0x90, 0x90, 0x90, 0xE0],
  [0xF0, 0x80, 0xF0, 0x80, 0xF0],
  [0xF0, 0x80, 0xF0, 0x80, 0x80]]

/-- The default of FONT, the patterns of that table: glyph d is at 5d to 5d + 4 (20_memory.md R51,
R64). -/
def defaultFont : Font :=
  Vector.ofFn fun k => ((fontGlyphs.getD (k.val / 5) []).getD (k.val % 5) 0#8).extractLsb' 4 4

end Sys2Proof.Machine
end

