-- ==== Sys2Proof/Machine/State.lean ====
section
/-! DEFINITION. The state of the machine (10_state.md R35), the reasons a step can stop, and the reset
state (10_state.md R34). -/

namespace Sys2Proof.Machine

/-- The five fault kinds of 60_exceptions.md R200, in the order of their codes 1 to 5. -/
inductive FaultKind where
  /-- CALL with `sp` = 16 (R203). -/
  | stackOverflow
  /-- RET with `sp` = 0 (R204). -/
  | stackUnderflow
  /-- A fetch or data access with a byte above address 4095 (R205). -/
  | memOutOfBounds
  /-- SKP or SKNP with `V[x]` > 15 (R206). -/
  | keyIndexOutOfRange
  /-- A LOAD of more than 3584 bytes (R207). -/
  | programTooLarge
deriving DecidableEq, Repr

/-- What the fault latch records (10_state.md R29): the kind, the address of the instruction whose STEP
faulted (0 for a LOAD fault), and the offending value that 60_exceptions.md R200 names. -/
structure FaultRecord where
  kind : FaultKind
  pc   : Word
  info : Nat
deriving DecidableEq, Repr

/-- The 4096-byte memory (20_memory.md R50) as the list of its cells that differ from the reset
contents, which FONT gives in part, addresses strictly rising (`Memory.wf`, Machine/Memory.lean). -/
abbrev Memory := List Host.Cell

/-- The display, 32 rows of 64 cells (10_state.md R31). -/
abbrev Display := Vector (Vector Bool 64) 32

/-- The state of the hardware: the tuple of 10_state.md R35, and the model's own `font`, the parameter
FONT (00_scope.md R4; log 2), and `rndIn` and `rndDraws`, which carry the operand `rnd` of STEP
(00_scope.md R6; log 3). -/
structure State where
  /-- V[0] to V[15] (R20); V[15] is VF (R21). -/
  v        : Vector Byte 16
  /-- The program counter (R23). -/
  pc       : Word
  /-- The index register I (R26). -/
  i        : Word
  /-- The stack pointer, 0 to 16: how many return addresses are on the call stack (R27). -/
  sp       : Fin 17
  /-- stack[0] to stack[15] (R30). -/
  stack    : Vector Word 16
  /-- mem[0] to mem[4095] (20_memory.md R50). -/
  mem      : Memory
  /-- The delay timer DT (R28). -/
  dt       : Byte
  /-- The sound timer ST (R28). -/
  st       : Byte
  /-- The Display Buffer (R31). -/
  pixels   : Display
  /-- The Key-State Latch (R32). -/
  keys     : Vector Bool 16
  /-- The fault latch (R29); `none` is the spec's own 'no fault'. -/
  fault    : Option FaultRecord
  /-- The model's own: the parameter FONT that this machine is given; no instruction and no command
  writes it (log 2). -/
  font     : Font
  /-- The model's own: the byte that a STEP(rnd) command presents to RND, if one does (log 3). -/
  rndIn    : Option Byte
  /-- The model's own: how many bytes RND has drawn from `Config.rndByte` (log 3). -/
  rndDraws : Nat
deriving DecidableEq, Repr

/-- Why a step stops with a fault: NEVER. Each fault of this hardware sets the fault latch and the
machine has a next state (60_exceptions.md R201, R211; log 1), and no other condition stops it, so
the type has no constructor. -/
inductive Fault where
deriving DecidableEq, Repr

/-- Why a step refuses an instruction. -/
inductive Refusal where
  /-- Raised by an arm of `exec` whose instruction has no meaning yet, with its mnemonic; no arm
  answers it now (safe). -/
  | notModelled (mnemonic : String)
deriving DecidableEq, Repr

/-- What a step answers. -/
abbrev Result := Host.Outcome State Fault Refusal

/-- The state after RESET and at power-on (10_state.md R34; 70_reset_and_hazards.md R230, R231).
Memory with nothing listed reads as its reset contents. `font` is the spec's default of the parameter
FONT (log 2); `rndIn` and `rndDraws` are the model's (DESIGN CHOICE, log 3). A machine with another
FONT starts from this state with that font in its place. -/
def State.reset : State where
  v        := Vector.replicate 16 0#8
  pc       := 0x200#16
  i        := 0#16
  sp       := 0
  stack    := Vector.replicate 16 0#16
  mem      := []
  dt       := 0#8
  st       := 0#8
  pixels   := Vector.replicate 32 (Vector.replicate 64 false)
  keys     := Vector.replicate 16 false
  fault    := none
  font     := defaultFont
  rndIn    := none
  rndDraws := 0

end Sys2Proof.Machine
end

