-- ==== Sys2Proof/Machine/Memory.lean ====
section
/-! DEFINITION. The memory (20_memory.md): its reset contents, reading and writing bytes, and the
canonical form of the list that holds it. The parameter FONT says what the first 80 addresses read as
when they are not listed, so every operation on the list takes it. -/

namespace Sys2Proof.Machine

/-! ## Reset contents -/

/-- The reset contents of a byte, which is what an unlisted address reads as: FONT below 80 and zero
from there on (10_state.md R34, 20_memory.md R51). -/
def Memory.unlisted (font : Font) (a : Nat) : Byte := if h : a < 80 then font.byte ⟨a, h⟩ else 0#8

/-- How many bytes of memory there are (20_memory.md R50). -/
def memSize : Nat := 4096

/-! ## Reading and writing bytes -/

/-- `mem[a]`. -/
def Memory.read (font : Font) : Memory → Nat → Byte
  | [], a => Memory.unlisted font a
  | (c, b) :: m, a => if c = a then b else Memory.read font m a

/-- The list with one cell put before it, unless the byte is what the address reads as unlisted. -/
def Memory.cons (font : Font) (a : Nat) (b : Byte) (m : Memory) : Memory :=
  if b = Memory.unlisted font a then m else (a, b) :: m

/-- `mem[a] <- b` and no other byte changes (20_memory.md R54); the canonical form is kept. -/
def Memory.write (font : Font) : Memory → Nat → Byte → Memory
  | [], a, b => Memory.cons font a b []
  | (c, d) :: m, a, b =>
    if c < a then (c, d) :: Memory.write font m a b
    else if c = a then Memory.cons font a b m
    else Memory.cons font a b ((c, d) :: m)

/-- Bytes at ascending addresses from `a`, each a read of one byte (20_memory.md R57, R59). -/
def Memory.loadBytes (font : Font) (m : Memory) (a : Nat) : Nat → List Byte
  | 0 => []
  | n + 1 => m.read font a :: m.loadBytes font (a + 1) n

/-- Single bytes written at ascending addresses from `a`, the first byte first (20_memory.md R57). -/
def Memory.storeBytes (font : Font) (m : Memory) (a : Nat) : List Byte → Memory
  | [] => m
  | b :: bs => Memory.storeBytes font (m.write font a b) (a + 1) bs

/-! ## The range check -/

/-- Whether an access of `n` bytes at `a` lies in 0 to 4095. The sum is an integer and is never
reduced (20_memory.md R53, R55, R65); an access of no bytes is in range (43_display.md R152). -/
def accessOk (a n : Nat) : Bool := n == 0 || decide (a + n ≤ memSize)

/-- The lowest address above 4095 of an access at `a` that is out of range (20_memory.md R53,
60_exceptions.md R205). -/
def lowestOutside (a : Nat) : Nat := max a memSize

/-! ## Canonical form -/

/-- The cells above `lo` are in canonical form: addresses strictly rising and inside the address
space, and no cell equal to what its address reads as unlisted. -/
def Memory.wfFrom (font : Font) : Nat → Memory → Bool
  | _, [] => true
  | lo, (c, b) :: m =>
    decide (lo ≤ c) && decide (c < memSize) && (b != Memory.unlisted font c) && Memory.wfFrom font (c + 1) m

/-- The canonical form of a memory. -/
def Memory.wf (font : Font) (m : Memory) : Bool := Memory.wfFrom font 0 m

end Sys2Proof.Machine
end

