-- ==== Sys2Proof/Machine/Operands.lean ====
section
/-! DEFINITION. The operand forms: registers, literals, the computed operands of 30_encoding.md R72
(effective addresses, the jump offset, the glyph address), decimal digits, key numbers and sprite
cells. -/

namespace Sys2Proof.Machine

/-- The number of VF (10_state.md R21). -/
def vf : RegIdx := 15

/-- `V[x]` (10_state.md R20). -/
def State.reg (s : State) (x : RegIdx) : Byte := s.v[x]

/-- `mem[a]` in a state: the byte that a read of it gives (20_memory.md R53). -/
def State.read (s : State) (a : Nat) : Byte := s.mem.read s.font a

/-- `n` bytes at ascending addresses from `a` (20_memory.md R57). -/
def State.loadBytes (s : State) (a n : Nat) : List Byte := s.mem.loadBytes s.font a n

/-- The memory of a state is in canonical form (log 22). -/
def State.memWf (s : State) : Bool := s.mem.wf s.font

/-- V0 to Vx, the registers of a dump (42_index_memory.md R144). -/
def State.regsUpTo (s : State) (x : RegIdx) : List Byte := s.v.toList.take (x.val + 1)

/-- A 12-bit literal used as an address or an index: `zext_16(nnn)` (30_encoding.md R72). -/
def zext16 (nnn : BitVec 12) : Word := nnn.setWidth 16

/-- The target of JP V0,nnn: `(zext_16(nnn) + zext_16(V[0])) mod 65536` (40_control_flow.md R109). -/
def offsetTarget (nnn : BitVec 12) (v0 : Byte) : Word := BitVec.ofNat 16 (nnn.toNat + v0.toNat)

/-- The base of every data address: `I` as an integer (42_index_memory.md R146). -/
def State.base (s : State) : Nat := s.i.toNat

/-- `zext_16(V[x]) * 5`, the address of a glyph (42_index_memory.md R142). -/
def glyphAddress (b : Byte) : Word := BitVec.ofNat 16 (b.toNat * 5)

/-- The hundreds, tens and units digits of a byte (42_index_memory.md R143). -/
def decimalDigits (b : Byte) : List Byte :=
  [BitVec.ofNat 8 (b.toNat / 100), BitVec.ofNat 8 (b.toNat / 10 % 10), BitVec.ofNat 8 (b.toNat % 10)]

/-! ## Keys -/

/-- `key[k]` (44_keys_timers.md R160). -/
def State.key (s : State) (k : KeyIdx) : Bool := s.keys[k]

/-- The key that a register names, if its value is 0 to 15; it is not masked (44_keys_timers.md R160;
the spec's decision D10, log 13). -/
def keyOperand (b : Byte) : Option KeyIdx := if h : b.toNat < 16 then some ⟨b.toNat, h⟩ else none

/-- The least k with `key[k]` = 1, scanning 0 to 15 in order (44_keys_timers.md R163). -/
def State.lowestKey (s : State) : Option KeyIdx := (List.finRange 16).find? fun k => s.key k

/-! ## Display cells -/

/-- A display cell: its row, then its column (43_display.md R150). -/
abbrev PixelIdx := Fin 32 × Fin 64

/-- `pixel[r][c]` (43_display.md R150). -/
def Display.get (d : Display) (p : PixelIdx) : Bool := (d[p.1])[p.2]

/-- The cell of row offset `r` and column offset `c` of a sprite at column `cx` and row `cy`: each
coordinate wraps by itself and the sums are integers (43_display.md R152, R153; the spec's decision
D6, log 9). -/
def spriteCell (cx cy : Byte) (r c : Nat) : PixelIdx :=
  (⟨(cy.toNat + r) % 32, Nat.mod_lt _ (by decide)⟩, ⟨(cx.toNat + c) % 64, Nat.mod_lt _ (by decide)⟩)

/-- The cells that row `r` of a sprite plots, left to right; bit 7 is the leftmost pixel and a 0 bit
plots nothing (43_display.md R152, R154; the spec's decision D22, log 15). -/
def spriteRowCells (cx cy : Byte) (r : Nat) (b : Byte) : List PixelIdx :=
  ((List.range 8).filter fun c => b.getLsbD (7 - c)).map (spriteCell cx cy r)

/-- The cells that the rows of a sprite plot, from row offset `r` on, in the order of the loops of
43_display.md R152. -/
def spriteCells (cx cy : Byte) (r : Nat) : List Byte → List PixelIdx
  | [] => []
  | b :: bs => spriteRowCells cx cy r b ++ spriteCells cx cy (r + 1) bs

end Sys2Proof.Machine
end

