-- ==== Sys2Proof/Machine/Flags.lean ====
section
/-! DEFINITION. Arithmetic results and the flag values of 10_state.md R33. Results are computed on
integers and narrowed at the end (41_load_alu.md R120). -/

namespace Sys2Proof.Machine

/-- A flag value is the 8-bit number 0 or 1 (41_load_alu.md R120 (c)). -/
def flagByte (f : Bool) : Byte := if f then 1#8 else 0#8

/-- `(a + b) mod 256` (41_load_alu.md R122, R127). -/
def addByte (a b : Byte) : Byte := BitVec.ofNat 8 (a.toNat + b.toNat)

/-- Carry of an 8-bit addition: the sum exceeds 255 (41_load_alu.md R127). -/
def addCarry (a b : Byte) : Bool := decide (a.toNat + b.toNat > 255)

/-- `(a - b) mod 256`, minuend first (41_load_alu.md R128, R130). -/
def subByte (a b : Byte) : Byte := BitVec.ofInt 8 ((a.toNat : Int) - (b.toNat : Int))

/-- No borrow: the minuend `a` is at least the subtrahend `b` (41_load_alu.md R128, R130). -/
def subNoBorrow (a b : Byte) : Bool := decide (a.toNat ≥ b.toNat)

/-- `a >> 1`, a logical shift (41_load_alu.md R129). -/
def shrByte (a : Byte) : Byte := BitVec.ofNat 8 (a.toNat / 2)

/-- The bit that a right shift drops: `a[0]` before the shift (41_load_alu.md R129). -/
def shrOut (a : Byte) : Bool := a.getLsbD 0

/-- `(a << 1) mod 256` (41_load_alu.md R131). -/
def shlByte (a : Byte) : Byte := BitVec.ofNat 8 (a.toNat * 2)

/-- The bit that a left shift drops: `a[7]` before the shift (41_load_alu.md R131). -/
def shlOut (a : Byte) : Bool := a.getLsbD 7

/-- `(I + V[x]) mod 65536` (42_index_memory.md R141). -/
def addIndex (i : Word) (b : Byte) : Word := BitVec.ofNat 16 (i.toNat + b.toNat)

/-- Carry out of the 16-bit addition: the sum exceeds 65535, not 0xFFF (42_index_memory.md R141,
90_conflicts.md C2). -/
def indexCarry (i : Word) (b : Byte) : Bool := decide (i.toNat + b.toNat > 65535)

end Sys2Proof.Machine
end

