-- ==== Sys2Proof/Machine/Ops.lean ====
section
/-! DEFINITION. The shared operations over the state: registers, the program counter, the call stack,
drawing, the random byte, fetching, and setting the fault latch. -/

namespace Sys2Proof.Machine

/-! ## Registers and the program counter -/

/-- `V[x] <- b` (10_state.md R20). -/
def State.setReg (s : State) (x : RegIdx) (b : Byte) : State := { s with v := s.v.set x.val b }

/-- VF as a flag: the value 0 or 1 (10_state.md R21, R33). A flag write comes after the result's, so it
wins where the destination is VF (41_load_alu.md R120; the spec's decision D8, log 11). -/
def State.setFlag (s : State) (f : Bool) : State := s.setReg vf (flagByte f)

/-- `V[j] <- mem[a + j]` for j = 0 to x; the registers above Vx keep their values
(42_index_memory.md R145). -/
def State.loadRegs (s : State) (x : RegIdx) (a : Nat) : State :=
  { s with v := Vector.ofFn fun j : Fin 16 => if j ≤ x then s.read (a + j.val) else s.reg j }

/-- `pc <- a`. -/
def State.setPc (s : State) (a : Word) : State := { s with pc := a }

/-- `pcn`: `(pc + 2) mod 65536` (40_control_flow.md R100). -/
def State.pcn (s : State) : Word := s.pc + 2#16

/-- `pc <- pcn`: what STEP does before the body of an instruction (40_control_flow.md R100), and the
whole of a taken skip's own effect. -/
def State.advance (s : State) : State := s.setPc s.pcn

/-- A conditional skip of one instruction (40_control_flow.md section 4). -/
def State.skipIf (s : State) (c : Bool) : State := if c then s.advance else s

/-- `I <- a` (10_state.md R26). -/
def State.setI (s : State) (a : Word) : State := { s with i := a }

/-- `DT <- b` (10_state.md R28). -/
def State.setDt (s : State) (b : Byte) : State := { s with dt := b }

/-- `ST <- b` (10_state.md R28). -/
def State.setSt (s : State) (b : Byte) : State := { s with st := b }

/-- The memory replaced. -/
def State.setMem (s : State) (m : Memory) : State := { s with mem := m }

/-- Bytes stored at ascending addresses from `a` (20_memory.md R54, R57). -/
def State.storeBytes (s : State) (a : Nat) (bs : List Byte) : State :=
  s.setMem (s.mem.storeBytes s.font a bs)

/-- The display replaced. -/
def State.setPixels (s : State) (d : Display) : State := { s with pixels := d }

/-! ## The call stack -/

/-- Push a return address: `stack[sp] <- a`, `sp <- sp + 1`; `none` when 16 entries are on the stack
(40_control_flow.md R104). -/
def State.push (s : State) (a : Word) : Option State :=
  if h : s.sp.val < 16 then
    some { s with stack := s.stack.set s.sp.val a h, sp := ⟨s.sp.val + 1, by omega⟩ }
  else none

/-- Pop: `sp <- sp - 1`, and the entry at the new `sp`, which keeps its value; `none` when the stack is
empty (40_control_flow.md R102, 10_state.md R30). -/
def State.pop (s : State) : Option (Word × State) :=
  if h : s.sp.val = 0 then none
  else some (s.stack[s.sp.val - 1]'(by omega), { s with sp := ⟨s.sp.val - 1, by omega⟩ })

/-! ## The display -/

/-- Toggle one cell: XOR with 1 (43_display.md R150). -/
def Display.toggle (d : Display) (p : PixelIdx) : Display :=
  d.set p.1.val ((d[p.1]).set p.2.val (!(d.get p)))

/-- Every cell 0 (43_display.md R151). -/
def Display.clear : Display := Vector.replicate 32 (Vector.replicate 64 false)

/-- Plot one sprite pixel: note whether the cell was set before, then toggle it (43_display.md R152). -/
def Display.plot (acc : Display × Bool) (p : PixelIdx) : Display × Bool :=
  (acc.1.toggle p, acc.2 || acc.1.get p)

/-- Plot cells in order; the flag is the cumulative OR of the collisions (43_display.md R152). -/
def Display.draw (d : Display) (ps : List PixelIdx) : Display × Bool :=
  ps.foldl Display.plot (d, false)

/-! ## The random byte -/

/-- The byte that RND reads: the operand of STEP(rnd) where the command presents one, and else a free
byte (00_scope.md R6; log 3). -/
def State.rndByte (s : State) : Byte :=
  match s.rndIn with
  | some b => b
  | none => Config.rndByte s.rndDraws

/-- The state after RND has read its byte: the next read is a fresh draw (41_load_alu.md R132; log 3). -/
def State.rndConsumed (s : State) : State :=
  match s.rndIn with
  | some _ => { s with rndIn := none }
  | none => { s with rndDraws := s.rndDraws + 1 }

/-! ## Faults -/

/-- The numeric code of a fault kind (60_exceptions.md R200). -/
def FaultKind.code : FaultKind → Nat
  | .stackOverflow => 1
  | .stackUnderflow => 2
  | .memOutOfBounds => 3
  | .keyIndexOutOfRange => 4
  | .programTooLarge => 5

/-- Set the fault latch unless a fault is already in it: the first fault is kept (10_state.md R29,
60_exceptions.md R202). No other cell changes (60_exceptions.md R201). -/
def State.latch (s : State) (f : FaultRecord) : State :=
  match s.fault with
  | none => { s with fault := some f }
  | some _ => s

/-- Taking a fault, from the state the STEP began in: the latch records the kind, the address of the
instruction and the offending value, and nothing else changes, `pc` included; there is no vector,
no handler and no return (60_exceptions.md R201, R211, R212; log 1). -/
def raise (kind : FaultKind) (info : Nat) (s : State) : Result :=
  .next (s.latch ⟨kind, s.pc, info⟩)

/-- A memory instruction: `t` where its whole range of `n` bytes at `a` is inside the memory, and else
MemOutOfBounds with none of its accesses done (20_memory.md R65, 60_exceptions.md R205). -/
def guardRange (a n : Nat) (s t : State) : Result :=
  if accessOk a n then .next t else raise .memOutOfBounds (lowestOutside a) s

/-! ## Fetch -/

/-- The two bytes at `pc` (20_memory.md R56). -/
def State.fetchBytes (s : State) : List Byte := s.loadBytes s.pc.toNat 2

/-- Whether the fetch is in range: `pc` is at most 4094 (20_memory.md R65). -/
def State.fetchOk (s : State) : Bool := accessOk s.pc.toNat 2

/-- The fetch fault (60_exceptions.md R205). -/
def fetchFault (s : State) : Result := raise .memOutOfBounds (lowestOutside s.pc.toNat) s

/-- A decode miss: the only effect is `pc <- pcn` (40_control_flow.md R101). -/
def execDecodeMiss (s : State) : Result := .next s.advance

/-- `s` with a word stored where the next STEP fetches, high byte at the lower address. -/
def State.placeWord (s : State) (w : Word) : State :=
  s.storeBytes s.pc.toNat (bytesOfWord w)

end Sys2Proof.Machine
end

