-- ==== Sys2Proof/Machine/Alu.lean ====
section
/-! DEFINITION. Register load, arithmetic, logic and random (41_load_alu.md). Operands are read from
`s`, the state before the STEP; the result is written first and the flag last (R120; log 11). -/

namespace Sys2Proof.Machine

/-- LD Vx,nn (41_load_alu.md R121). -/
def execLdImm (x : RegIdx) (nn : Byte) (s : State) : Result := .next (s.advance.setReg x nn)

/-- ADD Vx,nn (41_load_alu.md R122): no flag. -/
def execAddImm (x : RegIdx) (nn : Byte) (s : State) : Result :=
  .next (s.advance.setReg x (addByte (s.reg x) nn))

/-- LD Vx,Vy (41_load_alu.md R123; the spec's decision D30, log 14). -/
def execLdReg (x y : RegIdx) (s : State) : Result := .next (s.advance.setReg x (s.reg y))

/-- OR Vx,Vy (41_load_alu.md R124): no flag (the spec's decision D9, log 12). -/
def execOrReg (x y : RegIdx) (s : State) : Result :=
  .next (s.advance.setReg x (s.reg x ||| s.reg y))

/-- AND Vx,Vy (41_load_alu.md R125): no flag (the spec's decision D9, log 12). -/
def execAndReg (x y : RegIdx) (s : State) : Result :=
  .next (s.advance.setReg x (s.reg x &&& s.reg y))

/-- XOR Vx,Vy (41_load_alu.md R126): no flag (the spec's decision D9, log 12). -/
def execXorReg (x y : RegIdx) (s : State) : Result :=
  .next (s.advance.setReg x (s.reg x ^^^ s.reg y))

/-- ADD Vx,Vy (41_load_alu.md R127): VF = carry. -/
def execAddReg (x y : RegIdx) (s : State) : Result :=
  .next ((s.advance.setReg x (addByte (s.reg x) (s.reg y))).setFlag (addCarry (s.reg x) (s.reg y)))

/-- SUB Vx,Vy (41_load_alu.md R128): Vx - Vy, VF = no borrow. -/
def execSubReg (x y : RegIdx) (s : State) : Result :=
  .next ((s.advance.setReg x (subByte (s.reg x) (s.reg y))).setFlag
    (subNoBorrow (s.reg x) (s.reg y)))

/-- SHR Vx (41_load_alu.md R129): Vx is shifted in place and `y` is not used (the spec's decision D7,
log 10). -/
def execShr (x _y : RegIdx) (s : State) : Result :=
  .next ((s.advance.setReg x (shrByte (s.reg x))).setFlag (shrOut (s.reg x)))

/-- SUBN Vx,Vy (41_load_alu.md R130): Vy - Vx, VF = no borrow (the spec's decision D25, log 16). -/
def execSubnReg (x y : RegIdx) (s : State) : Result :=
  .next ((s.advance.setReg x (subByte (s.reg y) (s.reg x))).setFlag
    (subNoBorrow (s.reg y) (s.reg x)))

/-- SHL Vx (41_load_alu.md R131): Vx is shifted in place and `y` is not used (the spec's decision D7,
log 10). -/
def execShl (x _y : RegIdx) (s : State) : Result :=
  .next ((s.advance.setReg x (shlByte (s.reg x))).setFlag (shlOut (s.reg x)))

/-- RND Vx,nn (41_load_alu.md R132): a free byte AND nn (log 3). -/
def execRnd (x : RegIdx) (nn : Byte) (s : State) : Result :=
  .next (s.rndConsumed.advance.setReg x (s.rndByte &&& nn))

end Sys2Proof.Machine
end

