-- ==== Sys2Proof/Machine/Control.lean ====
section
/-! DEFINITION. Control transfer: RET, JP, CALL, the register skips, JP V0 (40_control_flow.md). Each
meaning takes the state the STEP began in, so `s.pc` is `pc0` and `s.advance` is the state on entry
to the body. -/

namespace Sys2Proof.Machine

/-- RET (40_control_flow.md R102). -/
def execRet (s : State) : Result :=
  match s.pop with
  | none => raise .stackUnderflow 0 s
  | some (a, t) => .next (t.setPc a)

/-- JP nnn (40_control_flow.md R103). -/
def execJp (nnn : BitVec 12) (s : State) : Result := .next (s.setPc (zext16 nnn))

/-- CALL nnn (40_control_flow.md R104): the return address is `pcn`. -/
def execCall (nnn : BitVec 12) (s : State) : Result :=
  match s.push s.pcn with
  | none => raise .stackOverflow 0 s
  | some t => .next (t.setPc (zext16 nnn))

/-- SE Vx,nn (40_control_flow.md R105). -/
def execSeImm (x : RegIdx) (nn : Byte) (s : State) : Result :=
  .next (s.advance.skipIf (s.reg x == nn))

/-- SNE Vx,nn (40_control_flow.md R106). -/
def execSneImm (x : RegIdx) (nn : Byte) (s : State) : Result :=
  .next (s.advance.skipIf (s.reg x != nn))

/-- SE Vx,Vy (40_control_flow.md R107). -/
def execSeReg (x y : RegIdx) (s : State) : Result :=
  .next (s.advance.skipIf (s.reg x == s.reg y))

/-- SNE Vx,Vy (40_control_flow.md R108). -/
def execSneReg (x y : RegIdx) (s : State) : Result :=
  .next (s.advance.skipIf (s.reg x != s.reg y))

/-- JP V0,nnn (40_control_flow.md R109). -/
def execJpV0 (nnn : BitVec 12) (s : State) : Result :=
  .next (s.setPc (offsetTarget nnn (s.reg 0)))

end Sys2Proof.Machine
end

