-- ==== Sys2Proof/Machine/Index.lean ====
section
/-! DEFINITION. The index register, stores and loads (42_index_memory.md). -/

namespace Sys2Proof.Machine

/-- LD I,nnn (42_index_memory.md R140). -/
def execLdI (nnn : BitVec 12) (s : State) : Result := .next (s.advance.setI (zext16 nnn))

/-- ADD I,Vx (42_index_memory.md R141): VF = carry out of 16 bits, written last. -/
def execAddI (x : RegIdx) (s : State) : Result :=
  .next ((s.advance.setI (addIndex s.i (s.reg x))).setFlag (indexCarry s.i (s.reg x)))

/-- LD F,Vx (42_index_memory.md R142). -/
def execLdF (x : RegIdx) (s : State) : Result :=
  .next (s.advance.setI (glyphAddress (s.reg x)))

/-- LD B,Vx (42_index_memory.md R143). -/
def execLdB (x : RegIdx) (s : State) : Result :=
  guardRange s.base 3 s
    (s.advance.storeBytes s.base (decimalDigits (s.reg x)))

/-- LD [I],Vx (42_index_memory.md R144). -/
def execLdMemVx (x : RegIdx) (s : State) : Result :=
  guardRange s.base (x.val + 1) s
    (s.advance.storeBytes s.base (s.regsUpTo x))

/-- LD Vx,[I] (42_index_memory.md R145). -/
def execLdVxMem (x : RegIdx) (s : State) : Result :=
  guardRange s.base (x.val + 1) s (s.advance.loadRegs x s.base)

end Sys2Proof.Machine
end

