-- ==== Sys2Proof/Machine/Keys.lean ====
section
/-! DEFINITION. The key and timer instructions (44_keys_timers.md). -/

namespace Sys2Proof.Machine

/-- SKP Vx (44_keys_timers.md R161). -/
def execSkp (x : RegIdx) (s : State) : Result :=
  match keyOperand (s.reg x) with
  | none => raise .keyIndexOutOfRange (s.reg x).toNat s
  | some k => .next (s.advance.skipIf (s.key k))

/-- SKNP Vx (44_keys_timers.md R162). -/
def execSknp (x : RegIdx) (s : State) : Result :=
  match keyOperand (s.reg x) with
  | none => raise .keyIndexOutOfRange (s.reg x).toNat s
  | some k => .next (s.advance.skipIf (!(s.key k)))

/-- LD Vx,K (44_keys_timers.md R163, 90_conflicts.md C1): with no key down `pc` goes back to `pc0` and
nothing has changed; else the lowest key, at once. -/
def execLdVxK (x : RegIdx) (s : State) : Result :=
  match s.lowestKey with
  | none => .next (s.advance.setPc s.pc)
  | some k => .next (s.advance.setReg x (BitVec.ofNat 8 k.val))

/-- LD Vx,DT (44_keys_timers.md R164). -/
def execLdVxDT (x : RegIdx) (s : State) : Result := .next (s.advance.setReg x s.dt)

/-- LD DT,Vx (44_keys_timers.md R165). -/
def execLdDTVx (x : RegIdx) (s : State) : Result := .next (s.advance.setDt (s.reg x))

/-- LD ST,Vx (44_keys_timers.md R166). -/
def execLdSTVx (x : RegIdx) (s : State) : Result := .next (s.advance.setSt (s.reg x))

end Sys2Proof.Machine
end

