-- ==== Sys2Proof/Machine/Screen.lean ====
section
/-! DEFINITION. The display instructions (43_display.md). -/

namespace Sys2Proof.Machine

/-- CLS (43_display.md R151). -/
def execCls (s : State) : Result := .next (s.advance.setPixels Display.clear)

/-- The cells that DRW Vx,Vy,n plots in a state: the sprite is the `n` bytes at `I`, its left edge at
column `V[x]` and its top at row `V[y]` (43_display.md R152, R154). -/
def State.drwCells (s : State) (x y : RegIdx) (n : BitVec 4) : List PixelIdx :=
  spriteCells (s.reg x) (s.reg y) 0 (s.loadBytes s.base n.toNat)

/-- DRW Vx,Vy,n (43_display.md R152): VF = collision, written last. -/
def execDrw (x y : RegIdx) (n : BitVec 4) (s : State) : Result :=
  guardRange s.base n.toNat s
    ((s.advance.setPixels (s.pixels.draw (s.drwCells x y n)).1).setFlag
      (s.pixels.draw (s.drwCells x y n)).2)

end Sys2Proof.Machine
end

