-- ==== Sys2Proof/Machine/Step.lean ====
section
/-! DEFINITION. STEP (40_control_flow.md R100), and placing the word that the next STEP fetches. -/

namespace Sys2Proof.Machine

/-- STEP: with a fault latched it does nothing (60_exceptions.md R202); else it fetches the two bytes
at `pc`, which may fault, and runs the instruction they decode to, or the no-op of a decode miss
(40_control_flow.md R100, R101). -/
def step (s : State) : Host.Outcome State Fault Refusal :=
  match s.fault with
  | some _ => .next s
  | none =>
    if s.fetchOk then
      match decode s.fetchBytes with
      | .ok (i, _) => exec i s
      | .error _ => execDecodeMiss s
    else fetchFault s

/-- `s` with an instruction word (numbered as spec/opcode_table.json numbers it) stored at `pc`, where
`step` fetches. It stands for a LOAD (45_external_commands.md R171; log 6), and changes memory
only: it takes a state whose next STEP does fetch, with no fault latched and `pc` at most 4094. -/
def State.withFetchWord (s : State) (nbits w : Nat) : State :=
  s.placeWord (BitVec.ofNat 16 (w % 2 ^ nbits))

end Sys2Proof.Machine
end

