-- ==== Sys2Proof/Machine/Commands.lean ====
section
/-! DEFINITION. The seven commands of the environment (00_scope.md R6): RESET, LOAD, STEP, TICK,
KEY_DOWN, KEY_UP and observe. Each is one atomic transition (00_scope.md R5). -/

namespace Sys2Proof.Machine

/-- The commands of 00_scope.md R6, with their operands. -/
inductive Command where
  | reset
  | load (bytes : List Byte)
  | step (rnd : Byte)
  | tick
  | keyDown (k : KeyIdx)
  | keyUp (k : KeyIdx)
  | observe
deriving DecidableEq, Repr

/-- Where a loaded program starts (00_scope.md R4). -/
def origin : Nat := 0x200

/-- The largest program that LOAD accepts, in bytes (00_scope.md R4). -/
def progMax : Nat := 3584

/-- One timer under TICK: down by 1 unless it is 0 (60_exceptions.md R214). -/
def tickTimer (t : Byte) : Byte := if t = 0#8 then 0#8 else t - 1#8

/-- TICK (60_exceptions.md R214). -/
def State.tick (s : State) : State := { s with dt := tickTimer s.dt, st := tickTimer s.st }

/-- KEY_DOWN(k) (45_external_commands.md R172). -/
def State.keyDown (s : State) (k : KeyIdx) : State := { s with keys := s.keys.set k.val true }

/-- KEY_UP(k) (45_external_commands.md R173). -/
def State.keyUp (s : State) (k : KeyIdx) : State := { s with keys := s.keys.set k.val false }

/-- LOAD(bytes) (45_external_commands.md R171): more than 3584 bytes latch ProgramTooLarge, with pc 0
and the length, unless a fault is latched already; else the bytes go to 0x200 on and nothing else
changes. -/
def State.load (s : State) (bytes : List Byte) : State :=
  if bytes.length > progMax then s.latch ⟨.programTooLarge, 0#16, bytes.length⟩
  else s.storeBytes origin bytes

/-- RESET (70_reset_and_hazards.md R230): every cell of the spec's state at its reset value, with the
FONT of this machine at 0 to 79. The model's own fields are a parameter and the environment's, and
stay (log 2, 4). -/
def State.resetCommand (s : State) : State :=
  { State.reset with font := s.font, rndIn := s.rndIn, rndDraws := s.rndDraws }

/-- STEP(rnd) (00_scope.md R6, 40_control_flow.md R100): `step` with the operand presented for this
STEP alone. -/
def stepCommand (rnd : Byte) (s : State) : Result :=
  match step { s with rndIn := some rnd } with
  | .next t => .next { t with rndIn := s.rndIn }
  | .fault f => .fault f
  | .refused r => .refused r

/-- One command. -/
def command (c : Command) (s : State) : Result :=
  match c with
  | .reset => .next s.resetCommand
  | .load bytes => .next (s.load bytes)
  | .step rnd => stepCommand rnd s
  | .tick => .next s.tick
  | .keyDown k => .next (s.keyDown k)
  | .keyUp k => .next (s.keyUp k)
  | .observe => .next s

/-- A schedule of commands, run in order (00_scope.md R5, R6): which schedule it is, is free. -/
def schedule : List Command → State → Result
  | [], s => .next s
  | c :: cs, s =>
    match command c s with
    | .next t => schedule cs t
    | .fault f => .fault f
    | .refused r => .refused r

/-! ## Observation (45_external_commands.md R174) -/

/-- The number of display columns. -/
def displayWidth : Nat := 64

/-- The number of display rows. -/
def displayHeight : Nat := 32

/-- The display cells as one row-major list, `P[r*64 + c] = pixel[r][c]`. -/
def State.pixelBuffer (s : State) : List Bool := s.pixels.toList.flatMap Vector.toList

end Sys2Proof.Machine
end

