-- ==== Sys2Proof/Safety.lean ====
section
/-! DEFINITION. What counts as a safe run and as a finished program, in the terms claims use. -/

namespace Sys2Proof.Machine

/-- A state that has not gone wrong: no fault is latched (60_exceptions.md R202). -/
def State.ok (s : State) : Prop := s.fault = none

/-- A schedule of commands is safe from a state when it runs to a state with no fault latched. Faults
are sticky, so a fault that any command latches and no RESET clears shows at the end. -/
def SafeSchedule (cs : List Command) (s : State) : Prop := ∃ t, schedule cs s = .next t ∧ t.ok

/-- The program has terminated at its `pc`: no fault, and the word there is a JP to its own address
(45_external_commands.md R176). -/
def State.terminated (s : State) : Prop :=
  s.ok ∧ s.fetchOk = true ∧
    ∃ nnn rest, decode s.fetchBytes = .ok (.jp nnn, rest) ∧ zext16 nnn = s.pc

/-- The fault latch agrees with 60_exceptions.md R200, and, for the faults of a STEP, with the state that
the STEP found and left (60_exceptions.md R201): `sp`, `pc`, `I` and the registers are as they were, so
the state still says which value the record has to name (R203 to R206). -/
def State.latchConsistent (s : State) : Prop :=
  match s.fault with
  | none => True
  | some r =>
    match r.kind with
    | .stackOverflow => r.pc = s.pc ∧ r.info = 0 ∧ s.sp = 16
    | .stackUnderflow => r.pc = s.pc ∧ r.info = 0 ∧ s.sp = 0
    | .memOutOfBounds => r.pc = s.pc ∧
        ((4095 ≤ s.pc.toNat ∧ r.info = max s.pc.toNat 4096) ∨
          (s.pc.toNat ≤ 4094 ∧ 4095 < s.i.toNat + 15 ∧ r.info = max s.i.toNat 4096))
    | .keyIndexOutOfRange => r.pc = s.pc ∧ 15 < r.info ∧ ∃ x, r.info = (s.reg x).toNat
    | .programTooLarge => r.pc = 0#16 ∧ 3584 < r.info

/-- The bounds of 40_control_flow.md R102 and R109: every return address is at most 4096, and `pc` at
most 0x10FE, so the 16-bit `pc` never wraps (10_state.md R25). -/
def State.pcBounded (s : State) : Prop :=
  s.pc.toNat ≤ 0x10FE ∧ ∀ j : Fin 16, (s.stack[j]).toNat ≤ 4096

end Sys2Proof.Machine
end

