-- ==== Sys2Proof/Certificates/Slice0/Obligations.lean ====
section
/-! DEFINITION. The statements for the provers. In a statement, `t = { s with pc := …, v := t.v }` says
that every cell of `t` but the ones named is the cell of `s`: registers, stack, memory (so every byte
reads as before), timers, display, keys, the fault latch and the model's own fields. -/

namespace Sys2Proof.Statement

open Sys2Proof.Machine

/-- 43_display.md R152 to R154 in closed form: the sprite of DRW Vx,Vy,n has a 1 bit on the cell `p`. -/
def SpriteBit (s : State) (x y : RegIdx) (n : BitVec 4) (p : PixelIdx) : Prop :=
  ∃ r c, r < n.toNat ∧ c < 8 ∧ ((s.reg y).toNat + r) % 32 = p.1.val ∧
    ((s.reg x).toNat + c) % 64 = p.2.val ∧ (s.read (s.i.toNat + r)).getLsbD (7 - c) = true

/-- The table of 10_state.md R25: `pc` after a STEP that does not fault. -/
def pcAfter (i : Instr) (s : State) : Word :=
  match i with
  | .ret => s.stack.toList.getD (s.sp.val - 1) 0#16
  | .jp nnn => BitVec.ofNat 16 nnn.toNat
  | .call nnn => BitVec.ofNat 16 nnn.toNat
  | .jpV0 nnn => BitVec.ofNat 16 (nnn.toNat + (s.reg 0).toNat)
  | .seImm x nn => if s.reg x = nn then s.pc + 4#16 else s.pc + 2#16
  | .sneImm x nn => if s.reg x ≠ nn then s.pc + 4#16 else s.pc + 2#16
  | .seReg x y => if s.reg x = s.reg y then s.pc + 4#16 else s.pc + 2#16
  | .sneReg x y => if s.reg x ≠ s.reg y then s.pc + 4#16 else s.pc + 2#16
  | .skp x => if s.keys.toList.getD (s.reg x).toNat false = true then s.pc + 4#16 else s.pc + 2#16
  | .sknp x => if s.keys.toList.getD (s.reg x).toNat false = false then s.pc + 4#16 else s.pc + 2#16
  | .ldVxK _ => if ∀ k, s.key k = false then s.pc else s.pc + 2#16
  | _ => s.pc + 2#16

/-- The table of 10_state.md R22: the general registers that an instruction may write. -/
def writesReg (i : Instr) (r : RegIdx) : Prop :=
  match i with
  | .ldImm x _ | .addImm x _ | .rnd x _ | .ldReg x _ | .orReg x _ | .andReg x _ | .xorReg x _
  | .ldVxDT x | .ldVxK x => r = x
  | .addReg x _ | .subReg x _ | .subnReg x _ | .shr x _ | .shl x _ => r = x ∨ r = 15
  | .drw _ _ _ | .addI _ => r = 15
  | .ldVxMem x => r ≤ x
  | _ => False

/-- The bytes that an instruction stores to, as addresses (20_memory.md R59, R65): from the base that
its meaning uses. -/
def storesTo (i : Instr) (s : State) (a : Nat) : Prop :=
  match i with
  | .ldB _ => s.base ≤ a ∧ a < s.base + 3
  | .ldMemVx x => s.base ≤ a ∧ a < s.base + (x.val + 1)
  | _ => False

end Sys2Proof.Statement

open Sys2Proof Sys2Proof.Machine Sys2Proof.Statement

/-! ## Encoding -/

/-- The round trip: the words of every instruction, with any bytes after them, decode to it. The bit
patterns are the spec's own choice (92_eei_decisions.md D29, log 14). -/
def Obligations.EncodedInstructionDecodesToItself : Prop :=
  ∀ (i : Instr) (rest : List Byte), decode (bytesOfWord (encode i) ++ rest) = .ok (i, rest)

/-- The other direction: a word that decodes to an instruction is that instruction's word, so no bit of
a word is dropped. -/
def Obligations.DecodedWordEncodesToItself : Prop :=
  ∀ (w : Word) (i : Instr), decodeWord w = .ok i → encode i = w

/-- The decoder by nibbles agrees with the mask and match columns of 30_encoding.md R74 on every word
(strict matching is the spec's decision D11, log 14). -/
def Obligations.DecoderAgreesWithMaskAndMatchTable : Prop :=
  ∀ w : Word,
    (∀ i, decodeWord w = .ok i → ∃ r ∈ opcodeTable, r.selects w = true ∧ r.mnemonic = i.mnemonic) ∧
    (∀ r ∈ opcodeTable, r.selects w = true → ∃ i, decodeWord w = .ok i ∧ i.mnemonic = r.mnemonic)

/-- No word selects two rows of 30_encoding.md R74 (the spec marks it as derived). -/
def Obligations.NoWordSelectsTwoOpcodeRows : Prop :=
  ∀ (w : Word) (r r' : OpcodeRow), r ∈ opcodeTable → r' ∈ opcodeTable →
    r.selects w = true → r'.selects w = true → r = r'

/-- The table of decode misses in 30_encoding.md R76, by group, low nibble and low byte (it rests on the
spec's decision D11, log 14). -/
def Obligations.DecodeMissesAreTheOnesListed : Prop :=
  ∀ w : Word, (decodeWord w = .error (.decodeMiss w)) ↔
    (w.toNat / 4096 = 0 ∧ w.toNat ≠ 0x00E0 ∧ w.toNat ≠ 0x00EE) ∨
    (w.toNat / 4096 = 5 ∧ w.toNat % 16 ≠ 0) ∨
    (w.toNat / 4096 = 8 ∧ w.toNat % 16 ∈ [8, 9, 0xA, 0xB, 0xC, 0xD, 0xF]) ∨
    (w.toNat / 4096 = 9 ∧ w.toNat % 16 ≠ 0) ∨
    (w.toNat / 4096 = 0xE ∧ w.toNat % 256 ∉ [0x9E, 0xA1]) ∨
    (w.toNat / 4096 = 0xF ∧
      w.toNat % 256 ∉ [0x07, 0x0A, 0x15, 0x18, 0x1E, 0x29, 0x33, 0x55, 0x65])

/-- The words that 30_encoding.md and the worked examples spell out decode to the instructions they
stand for (R71, R74, R75). -/
def Obligations.WordsOfTheSpecDecodeAsItSays : Prop :=
  decodeWord 0x6005#16 = .ok (.ldImm 0 0x05#8) ∧ decodeWord 0xF30A#16 = .ok (.ldVxK 3) ∧
  decodeWord 0x8126#16 = .ok (.shr 1 2) ∧ decodeWord 0xD012#16 = .ok (.drw 0 1 2#4) ∧
  decodeWord 0x2ABC#16 = .ok (.call 0xABC#12) ∧ decodeWord 0xF155#16 = .ok (.ldMemVx 1) ∧
  decodeWord 0x00E1#16 = .error (.decodeMiss 0x00E1#16) ∧
  decodeWord 0x5121#16 = .error (.decodeMiss 0x5121#16)

/-! ## The step -/

/-- 20_memory.md R56 and R58: the fetched word has the byte at `pc` in bits 15 to 8 and the byte at
`pc + 1` below, at even and odd `pc` alike, and it is the word that is decoded (that an odd `pc` is
no fault is the spec's decision D12, log 20). -/
def Obligations.FetchIsBigEndianAtAnyPc : Prop :=
  ∀ s : State, ∃ w : Word,
    w.toNat = 256 * (s.read s.pc.toNat).toNat + (s.read (s.pc.toNat + 1)).toNat ∧
    decode s.fetchBytes = (decodeWord w).map fun i => (i, [])

/-- 40_control_flow.md R100: with no fault latched and the fetch in range, STEP is `exec` of the
instruction that the bytes at `pc` decode to, and `step` adds nothing around it (the advance of `pc`
is inside the meanings). -/
def Obligations.StepRunsTheDecodedInstruction : Prop :=
  ∀ (s : State) (i : Instr), s.fault = none → s.pc.toNat + 1 ≤ 4095 →
    decode [s.read s.pc.toNat, s.read (s.pc.toNat + 1)] = .ok (i, []) → step s = exec i s

/-- 40_control_flow.md R101: a word that matches no row only advances `pc` by 2 (which words those are
rests on the spec's decisions D11 and D29, log 14). -/
def Obligations.DecodeMissOnlyAdvancesPc : Prop :=
  ∀ s : State, s.fault = none → s.pc.toNat + 1 ≤ 4095 →
    (∀ i, decodeWord (wordOfBytes (s.read s.pc.toNat) (s.read (s.pc.toNat + 1))) ≠ .ok i) →
    step s = .next { s with pc := s.pc + 2#16 }

/-- A fetch with a byte above 4095 latches MemOutOfBounds with the lowest bad address, and changes
nothing else (20_memory.md R53, R65 and 60_exceptions.md R205; the spec's decisions D2 and D3,
log 17, 18). -/
def Obligations.FetchOutOfRangeLatchesFault : Prop :=
  ∀ s : State, s.fault = none → 4095 < s.pc.toNat + 1 →
    step s = .next { s with
      fault := some ⟨.memOutOfBounds, s.pc,
        if s.pc.toNat > 4095 then s.pc.toNat else s.pc.toNat + 1⟩ }

/-- 60_exceptions.md R202: with a fault latched a STEP changes nothing at all (the spec's decision D4,
log 17). -/
def Obligations.StepWithFaultLatchedChangesNothing : Prop :=
  ∀ s : State, s.fault ≠ none → step s = .next s

/-- 60_exceptions.md R201 for every instruction and for the fetch: a STEP from an empty latch answers a
next state, which either has no fault, or is the state before with a fault of this `pc` latched and
nothing else changed (the spec's decision D3, log 17). -/
def Obligations.StepFaultsAreAllOrNothing : Prop :=
  ∀ s : State, s.fault = none → ∃ t, step s = .next t ∧
    (t.fault = none ∨ ∃ kind info, t = { s with fault := some ⟨kind, s.pc, info⟩ })

/-- Every meaning answers a next state in every state: no instruction stops the machine
(60_exceptions.md R200, R208; log 1). -/
def Obligations.EveryInstructionAnswersANextState : Prop :=
  ∀ (i : Instr) (s : State), ∃ t, exec i s = .next t

/-! ## Control transfer -/

/-- 40_control_flow.md R102: RET pops the call stack into `pc`, the popped entry keeping its value, and
with an empty stack latches StackUnderflow and changes nothing else (the fault and its lack of any
other effect are the spec's decisions D2 and D3, the kept entry its decision D20; log 17, 18, 20). -/
def Obligations.RetPopsOrUnderflows : Prop :=
  ∀ s : State,
    (∀ h : 0 < s.sp.val, exec .ret s = .next { s with
      sp := ⟨s.sp.val - 1, by omega⟩
      pc := s.stack[s.sp.val - 1]'(by omega) }) ∧
    (s.sp = 0 → s.fault = none →
      exec .ret s = .next { s with fault := some ⟨.stackUnderflow, s.pc, 0⟩ })

/-- 40_control_flow.md R103 and R109: JP nnn and JP V0,nnn set `pc` to the unreduced target and change
nothing else. -/
def Obligations.JumpsSetPcOnly : Prop :=
  ∀ (nnn : BitVec 12) (s : State),
    (∃ t, exec (.jp nnn) s = .next t ∧ t = { s with pc := t.pc } ∧ t.pc.toNat = nnn.toNat) ∧
    (∃ t, exec (.jpV0 nnn) s = .next t ∧ t = { s with pc := t.pc } ∧
      t.pc.toNat = nnn.toNat + (s.reg 0).toNat)

/-- 40_control_flow.md R104: CALL pushes `pc0 + 2` and jumps, and with 16 entries on the stack latches
StackOverflow and changes nothing else (the spec's decisions D2 and D3; log 17, 18). -/
def Obligations.CallPushesOrOverflows : Prop :=
  ∀ (nnn : BitVec 12) (s : State),
    (∀ h : s.sp.val < 16, ∃ t, exec (.call nnn) s = .next t ∧
      t = { s with pc := t.pc, sp := t.sp, stack := t.stack } ∧ t.pc.toNat = nnn.toNat ∧
      t.sp.val = s.sp.val + 1 ∧ t.stack[s.sp.val] = s.pc + 2#16 ∧
      ∀ j : Fin 16, j.val ≠ s.sp.val → t.stack[j] = s.stack[j]) ∧
    (s.sp = 16 → s.fault = none →
      exec (.call nnn) s = .next { s with fault := some ⟨.stackOverflow, s.pc, 0⟩ })

/-- 40_control_flow.md R105 to R108: the register skips move `pc` by 4 where their condition holds and
by 2 where it does not, and change nothing else. -/
def Obligations.RegisterSkipsMovePcBy2Or4 : Prop :=
  ∀ (x y : RegIdx) (nn : Byte) (s : State),
    exec (.seImm x nn) s =
      .next { s with pc := if s.reg x = nn then s.pc + 4#16 else s.pc + 2#16 } ∧
    exec (.sneImm x nn) s =
      .next { s with pc := if s.reg x = nn then s.pc + 2#16 else s.pc + 4#16 } ∧
    exec (.seReg x y) s =
      .next { s with pc := if s.reg x = s.reg y then s.pc + 4#16 else s.pc + 2#16 } ∧
    exec (.sneReg x y) s =
      .next { s with pc := if s.reg x = s.reg y then s.pc + 2#16 else s.pc + 4#16 }

/-- The source's property of CALL and RET (95_test_vectors.md S7; 40_control_flow.md R102, R104): a CALL
whose target holds a RET comes back, after two STEPs, to the address after the CALL, with `sp` as it
was and everything but the stack slot unchanged. -/
def Obligations.CallThenRetRoundTrips : Prop :=
  ∀ (s : State) (nnn : BitVec 12), s.fault = none → s.pc.toNat + 1 ≤ 4095 → s.sp.val < 16 →
    decode [s.read s.pc.toNat, s.read (s.pc.toNat + 1)] = .ok (.call nnn, []) →
    nnn.toNat + 1 ≤ 4095 →
    decode [s.read nnn.toNat, s.read (nnn.toNat + 1)] = .ok (.ret, []) →
    ∃ t u, step s = .next t ∧ step t = .next u ∧
      u = { s with pc := s.pc + 2#16, stack := u.stack } ∧
      ∀ j : Fin 16, j.val ≠ s.sp.val → u.stack[j] = s.stack[j]

/-! ## Load, arithmetic, logic -/

/-- 41_load_alu.md R121 and R122: LD Vx,nn and ADD Vx,nn write Vx and no flag; the sum wraps. -/
def Obligations.LiteralLoadAndAdd : Prop :=
  ∀ (x : RegIdx) (nn : Byte) (s : State),
    (∃ t, exec (.ldImm x nn) s = .next t ∧ t = { s with pc := s.pc + 2#16, v := t.v } ∧
      t.reg x = nn ∧ ∀ r, r ≠ x → t.reg r = s.reg r) ∧
    (∃ t, exec (.addImm x nn) s = .next t ∧ t = { s with pc := s.pc + 2#16, v := t.v } ∧
      (t.reg x).toNat = ((s.reg x).toNat + nn.toNat) % 256 ∧ ∀ r, r ≠ x → t.reg r = s.reg r)

/-- 41_load_alu.md R123 to R126: the copy and the logic operations write Vx alone. That VF is not
written by OR, AND and XOR is the spec's decision D9 (log 12), and that the copy exists its decision
D30 (log 14). -/
def Obligations.CopyAndLogicWriteVxOnly : Prop :=
  ∀ (x y : RegIdx) (s : State),
    (∃ t, exec (.ldReg x y) s = .next t ∧ t = { s with pc := s.pc + 2#16, v := t.v } ∧
      t.reg x = s.reg y ∧ ∀ r, r ≠ x → t.reg r = s.reg r) ∧
    (∃ t, exec (.orReg x y) s = .next t ∧ t = { s with pc := s.pc + 2#16, v := t.v } ∧
      t.reg x = s.reg x ||| s.reg y ∧ ∀ r, r ≠ x → t.reg r = s.reg r) ∧
    (∃ t, exec (.andReg x y) s = .next t ∧ t = { s with pc := s.pc + 2#16, v := t.v } ∧
      t.reg x = s.reg x &&& s.reg y ∧ ∀ r, r ≠ x → t.reg r = s.reg r) ∧
    (∃ t, exec (.xorReg x y) s = .next t ∧ t = { s with pc := s.pc + 2#16, v := t.v } ∧
      t.reg x = s.reg x ^^^ s.reg y ∧ ∀ r, r ≠ x → t.reg r = s.reg r)

/-- 41_load_alu.md R127: ADD Vx,Vy; VF is 1 iff the sum of the old values exceeds 255, also for x = 15,
where the sum is lost (flag last is the spec's decision D8, log 11). -/
def Obligations.AddRegistersSetsCarry : Prop :=
  ∀ (x y : RegIdx) (s : State),
    ∃ t, exec (.addReg x y) s = .next t ∧ t = { s with pc := s.pc + 2#16, v := t.v } ∧
      (x ≠ 15 → (t.reg x).toNat = ((s.reg x).toNat + (s.reg y).toNat) % 256) ∧
      t.reg 15 = (if (s.reg x).toNat + (s.reg y).toNat > 255 then 1#8 else 0#8) ∧
      ∀ r, r ≠ x → r ≠ 15 → t.reg r = s.reg r

/-- 41_load_alu.md R128: SUB Vx,Vy; VF is 1 iff the old Vx is at least the old Vy, also for x = 15, where
the difference is lost (flag last is the spec's decision D8, log 11). -/
def Obligations.SubRegistersSetsNoBorrow : Prop :=
  ∀ (x y : RegIdx) (s : State),
    ∃ t, exec (.subReg x y) s = .next t ∧ t = { s with pc := s.pc + 2#16, v := t.v } ∧
      (x ≠ 15 → (t.reg x).toNat = ((s.reg x).toNat + 256 - (s.reg y).toNat) % 256) ∧
      t.reg 15 = (if (s.reg x).toNat ≥ (s.reg y).toNat then 1#8 else 0#8) ∧
      ∀ r, r ≠ x → r ≠ 15 → t.reg r = s.reg r

/-- 41_load_alu.md R130: SUBN Vx,Vy is Vy minus Vx. The direction is the spec's decision D25 (log 16), and
the flag last, so that it stays for x = 15, its decision D8 (log 11). -/
def Obligations.SubnRegistersSetsNoBorrow : Prop :=
  ∀ (x y : RegIdx) (s : State),
    ∃ t, exec (.subnReg x y) s = .next t ∧ t = { s with pc := s.pc + 2#16, v := t.v } ∧
      (x ≠ 15 → (t.reg x).toNat = ((s.reg y).toNat + 256 - (s.reg x).toNat) % 256) ∧
      t.reg 15 = (if (s.reg y).toNat ≥ (s.reg x).toNat then 1#8 else 0#8) ∧
      ∀ r, r ≠ x → r ≠ 15 → t.reg r = s.reg r

/-- 41_load_alu.md R129 and R131: SHR and SHL shift Vx in place whatever `y` is (the spec's decision D7,
log 10), and VF is the bit that left the register, also for x = 15 (flag last is its decision D8,
log 11). -/
def Obligations.ShiftsCaptureTheBitShiftedOut : Prop :=
  ∀ (x y : RegIdx) (s : State),
    (∃ t, exec (.shr x y) s = .next t ∧ t = { s with pc := s.pc + 2#16, v := t.v } ∧
      (x ≠ 15 → t.reg x = s.reg x >>> 1) ∧
      (t.reg 15).toNat = (s.reg x).toNat % 2 ∧ ∀ r, r ≠ x → r ≠ 15 → t.reg r = s.reg r) ∧
    (∃ t, exec (.shl x y) s = .next t ∧ t = { s with pc := s.pc + 2#16, v := t.v } ∧
      (x ≠ 15 → t.reg x = s.reg x <<< 1) ∧
      (t.reg 15).toNat = (s.reg x).toNat / 128 ∧ ∀ r, r ≠ x → r ≠ 15 → t.reg r = s.reg r)

/-- 41_load_alu.md R132: RND writes the byte it is given AND nn to Vx. The byte is the one a STEP(rnd)
presents or a free draw, and the draw after it is another one (log 3); nothing rests on its value. -/
def Obligations.RndMasksTheByteItReads : Prop :=
  ∀ (x : RegIdx) (nn : Byte) (s : State),
    ∃ t, exec (.rnd x nn) s = .next t ∧
      t = { s with pc := s.pc + 2#16, v := t.v, rndIn := none, rndDraws := t.rndDraws } ∧
      (∀ b, s.rndIn = some b → t.reg x = b &&& nn ∧ t.rndDraws = s.rndDraws) ∧
      (s.rndIn = none → t.reg x = Config.rndByte s.rndDraws &&& nn ∧ t.rndDraws = s.rndDraws + 1) ∧
      ∀ r, r ≠ x → t.reg r = s.reg r

/-! ## Index register and memory -/

/-- 42_index_memory.md R140 and R142: LD I,nnn and LD F,Vx set `I` alone; the glyph address is five
times the whole byte. -/
def Obligations.IndexLoadsSetIndexOnly : Prop :=
  ∀ (nnn : BitVec 12) (x : RegIdx) (s : State),
    (∃ t, exec (.ldI nnn) s = .next t ∧ t = { s with pc := s.pc + 2#16, i := t.i } ∧
      t.i.toNat = nnn.toNat) ∧
    (∃ t, exec (.ldF x) s = .next t ∧ t = { s with pc := s.pc + 2#16, i := t.i } ∧
      t.i.toNat = (s.reg x).toNat * 5)

/-- 42_index_memory.md R141: ADD I,Vx; VF is the carry out of 16 bits (90_conflicts.md C2), written last:
with x = 15 the old VF is added and then overwritten (the spec's decision D8, log 11). -/
def Obligations.AddIndexSetsCarryOutOf16Bits : Prop :=
  ∀ (x : RegIdx) (s : State),
    ∃ t, exec (.addI x) s = .next t ∧ t = { s with pc := s.pc + 2#16, i := t.i, v := t.v } ∧
      t.i.toNat = (s.i.toNat + (s.reg x).toNat) % 65536 ∧
      t.reg 15 = (if s.i.toNat + (s.reg x).toNat > 65535 then 1#8 else 0#8) ∧
      ∀ r, r ≠ 15 → t.reg r = s.reg r

/-- 42_index_memory.md R143: LD B,Vx stores the three decimal digits at `I`, `I + 1`, `I + 2` and no
other byte, or faults with no byte written (the fault is the spec's decisions D2 and D3; log 17,
18). -/
def Obligations.DecimalStoreWritesThreeDigits : Prop :=
  ∀ (x : RegIdx) (s : State),
    (s.i.toNat + 2 ≤ 4095 → ∃ t, exec (.ldB x) s = .next t ∧
      t = { s with pc := s.pc + 2#16, mem := t.mem } ∧
      (s.memWf = true →
        (t.read s.i.toNat).toNat = (s.reg x).toNat / 100 ∧
        (t.read (s.i.toNat + 1)).toNat = (s.reg x).toNat / 10 % 10 ∧
        (t.read (s.i.toNat + 2)).toNat = (s.reg x).toNat % 10) ∧
      ∀ a, a < s.i.toNat ∨ s.i.toNat + 2 < a → t.read a = s.read a) ∧
    (4095 < s.i.toNat + 2 → s.fault = none → exec (.ldB x) s =
      .next { s with fault := some ⟨.memOutOfBounds, s.pc, max s.i.toNat 4096⟩ })

/-- 42_index_memory.md R144: LD [I],Vx stores V0 to Vx at ascending addresses and no other byte, or
faults with no byte written (the fault is the spec's decisions D2 and D3; log 17, 18). -/
def Obligations.RegisterDumpStoresV0ToVx : Prop :=
  ∀ (x : RegIdx) (s : State),
    (s.i.toNat + x.val ≤ 4095 → ∃ t, exec (.ldMemVx x) s = .next t ∧
      t = { s with pc := s.pc + 2#16, mem := t.mem } ∧
      (s.memWf = true → ∀ j, j ≤ x → t.read (s.i.toNat + j.val) = s.reg j) ∧
      ∀ a, a < s.i.toNat ∨ s.i.toNat + x.val < a → t.read a = s.read a) ∧
    (4095 < s.i.toNat + x.val → s.fault = none → exec (.ldMemVx x) s =
      .next { s with fault := some ⟨.memOutOfBounds, s.pc, max s.i.toNat 4096⟩ })

/-- 42_index_memory.md R145: LD Vx,[I] loads V0 to Vx and leaves the higher registers, memory and `I`,
or faults with no register written (the fault is the spec's decisions D2 and D3; log 17, 18). -/
def Obligations.RegisterLoadReadsV0ToVx : Prop :=
  ∀ (x : RegIdx) (s : State),
    (s.i.toNat + x.val ≤ 4095 → ∃ t, exec (.ldVxMem x) s = .next t ∧
      t = { s with pc := s.pc + 2#16, v := t.v } ∧
      (∀ j, j ≤ x → t.reg j = s.read (s.i.toNat + j.val)) ∧
      ∀ j, x < j → t.reg j = s.reg j) ∧
    (4095 < s.i.toNat + x.val → s.fault = none → exec (.ldVxMem x) s =
      .next { s with fault := some ⟨.memOutOfBounds, s.pc, max s.i.toNat 4096⟩ })

/-- A byte reads as it was last written, and a write leaves every other byte alone (20_memory.md R54,
R60), for every FONT and a memory in canonical form, which every step keeps. -/
def Obligations.MemoryReadsTheLastWrite : Prop :=
  ∀ (font : Font) (m : Memory) (a c : Nat) (b : Byte), m.wf font = true → a ≤ 4095 →
    (m.write font a b).wf font = true ∧
      (m.write font a b).read font c = if c = a then b else m.read font c

/-- 20_memory.md R62: bytes that LD [I],Vx stores are what a later fetch from their addresses decodes,
with nothing in between (the spec marks it as derived, and as its decision D21; log 20). -/
def Obligations.StoredBytesAreFetchedAtOnce : Prop :=
  ∀ (s : State) (x j k : RegIdx), s.memWf = true → s.i.toNat + x.val ≤ 4095 →
    k.val = j.val + 1 → k ≤ x →
    ∃ t, exec (.ldMemVx x) s = .next t ∧
      State.fetchBytes { t with pc := s.i + BitVec.ofNat 16 j.val } = [s.reg j, s.reg k]

/-! ## Display -/

/-- 43_display.md R151: CLS clears all 2048 cells and changes nothing else. -/
def Obligations.ClsClearsEveryCell : Prop :=
  ∀ s : State, ∃ t, exec .cls s = .next t ∧ t = { s with pc := s.pc + 2#16, pixels := t.pixels } ∧
    ∀ p, t.pixels.get p = false

/-- 43_display.md R152 to R154: DRW toggles exactly the cells on which the sprite has a 1 bit, and VF is
1 iff one of them was set before. The wrap is the spec's decision D6 (log 9), the geometry its
decision D22 (log 15); that the old VF is the coordinate where x or y is 15, and the flag is written
last, is its decision D8 (log 11). -/
def Obligations.DrwTogglesExactlyTheSpriteCells : Prop :=
  ∀ (x y : RegIdx) (n : BitVec 4) (s : State), n = 0#4 ∨ s.i.toNat + n.toNat ≤ 4096 →
    ∃ t, exec (.drw x y n) s = .next t ∧
      t = { s with pc := s.pc + 2#16, v := t.v, pixels := t.pixels } ∧
      (∀ p, SpriteBit s x y n p → t.pixels.get p = !(s.pixels.get p)) ∧
      (∀ p, ¬ SpriteBit s x y n p → t.pixels.get p = s.pixels.get p) ∧
      ((∃ p, SpriteBit s x y n p ∧ s.pixels.get p = true) → t.reg 15 = 1#8) ∧
      ((∀ p, SpriteBit s x y n p → s.pixels.get p = false) → t.reg 15 = 0#8) ∧
      ∀ r, r ≠ 15 → t.reg r = s.reg r

/-- 43_display.md R152, 20_memory.md R65: a DRW whose last sprite byte is above 4095 toggles no cell,
leaves VF, and latches MemOutOfBounds (the spec's decisions D2 and D3, log 17, 18). -/
def Obligations.DrwOutOfRangeLatchesFault : Prop :=
  ∀ (x y : RegIdx) (n : BitVec 4) (s : State), n ≠ 0#4 → 4095 < s.i.toNat + n.toNat - 1 →
    s.fault = none → exec (.drw x y n) s =
      .next { s with fault := some ⟨.memOutOfBounds, s.pc, max s.i.toNat 4096⟩ }

/-- 43_display.md R152 (95_test_vectors.md S4): the same sprite drawn twice at the same place restores
every cell. The second flag is 1 iff the first draw set a cell, as R152's pseudocode and
90_conflicts.md C3 have it; R152's own sentence on the second VF says less exactly 'if the sprite has
at least one 1 bit'. Where the sprite's cells are rests on the spec's decisions D6 (the wrap, log 9) and
D22 (the geometry, log 15). The premise on the coordinates says that the first flag write did not move
the sprite: it holds for x and y other than 15, and leaves out an x or y of 15 where VF changed, so
that the second draw is at another place. -/
def Obligations.DrawingTwiceRestoresTheDisplay : Prop :=
  ∀ (x y : RegIdx) (n : BitVec 4) (s t u : State), n = 0#4 ∨ s.i.toNat + n.toNat ≤ 4096 →
    exec (.drw x y n) s = .next t → t.reg x = s.reg x → t.reg y = s.reg y →
    exec (.drw x y n) t = .next u →
    u.pixels = s.pixels ∧
      ((∃ p, SpriteBit s x y n p ∧ s.pixels.get p = false) → u.reg 15 = 1#8) ∧
      ((∀ p, SpriteBit s x y n p → s.pixels.get p = true) → u.reg 15 = 0#8)

/-- 45_external_commands.md R174: the observable buffer is the 2048 cells in row-major order, 64 columns
by 32 rows, and observing changes nothing. -/
def Obligations.PixelBufferIsRowMajor : Prop :=
  ∀ s : State, displayWidth = 64 ∧ displayHeight = 32 ∧ s.pixelBuffer.length = 2048 ∧
    (∀ (r : Fin 32) (c : Fin 64), s.pixelBuffer[r.val * 64 + c.val]? = some (s.pixels.get (r, c))) ∧
    command .observe s = .next s

/-! ## Keys and timers -/

/-- 44_keys_timers.md R161 and R162: SKP and SKNP skip on the level of the key that Vx names, and with
Vx above 15 latch KeyIndexOutOfRange and change nothing else (the fault is the spec's decision D10,
log 13). -/
def Obligations.KeySkipsFollowTheLatch : Prop :=
  ∀ (x : RegIdx) (s : State),
    (∀ k : KeyIdx, (s.reg x).toNat = k.val →
      exec (.skp x) s =
        .next { s with pc := if s.key k = true then s.pc + 4#16 else s.pc + 2#16 } ∧
      exec (.sknp x) s =
        .next { s with pc := if s.key k = true then s.pc + 2#16 else s.pc + 4#16 }) ∧
    (15 < (s.reg x).toNat → s.fault = none →
      exec (.skp x) s =
        .next { s with fault := some ⟨.keyIndexOutOfRange, s.pc, (s.reg x).toNat⟩ } ∧
      exec (.sknp x) s =
        .next { s with fault := some ⟨.keyIndexOutOfRange, s.pc, (s.reg x).toNat⟩ })

/-- 44_keys_timers.md R163 (90_conflicts.md C1): LD Vx,K takes the lowest key that is down and completes
at once, and with no key down changes nothing at all (that it looks at levels and never waits for a
release is the spec's decision D27, log 20). -/
def Obligations.KeyWaitTakesLowestKeyOrHolds : Prop :=
  ∀ (x : RegIdx) (s : State),
    (∀ k : KeyIdx, s.key k = true → (∀ j, j < k → s.key j = false) →
      ∃ t, exec (.ldVxK x) s = .next t ∧ t = { s with pc := s.pc + 2#16, v := t.v } ∧
        (t.reg x).toNat = k.val ∧ ∀ r, r ≠ x → t.reg r = s.reg r) ∧
    ((∀ k, s.key k = false) → exec (.ldVxK x) s = .next s)

/-- 44_keys_timers.md R164 to R166: the timer instructions. -/
def Obligations.TimerInstructionsCopyOneCell : Prop :=
  ∀ (x : RegIdx) (s : State),
    (∃ t, exec (.ldVxDT x) s = .next t ∧ t = { s with pc := s.pc + 2#16, v := t.v } ∧
      t.reg x = s.dt ∧ ∀ r, r ≠ x → t.reg r = s.reg r) ∧
    exec (.ldDTVx x) s = .next { s with pc := s.pc + 2#16, dt := s.reg x } ∧
    exec (.ldSTVx x) s = .next { s with pc := s.pc + 2#16, st := s.reg x }

/-- 60_exceptions.md R214: TICK counts each timer down by 1 unless it is 0, and changes nothing else, in
every state (that it acts while a fault is latched is the spec's decision D4, log 17). -/
def Obligations.TickDecrementsNonzeroTimers : Prop :=
  ∀ s : State, ∃ t, command .tick s = .next t ∧ t = { s with dt := t.dt, st := t.st } ∧
    t.dt.toNat = s.dt.toNat - 1 ∧ t.st.toNat = s.st.toNat - 1

/-- 45_external_commands.md R172 and R173: KEY_DOWN and KEY_UP set and clear one slot and change nothing
else (that no key above 15 can be presented is the spec's decision D23, log 23). -/
def Obligations.KeyCommandsSetOneSlot : Prop :=
  ∀ (k : KeyIdx) (s : State),
    (∃ t, command (.keyDown k) s = .next t ∧ t = { s with keys := t.keys } ∧ t.key k = true ∧
      ∀ j, j ≠ k → t.key j = s.key j) ∧
    (∃ t, command (.keyUp k) s = .next t ∧ t = { s with keys := t.keys } ∧ t.key k = false ∧
      ∀ j, j ≠ k → t.key j = s.key j)

/-! ## Load, reset, the latch -/

/-- 45_external_commands.md R171: LOAD writes its bytes at 0x200 on and changes nothing else; more than
3584 bytes write nothing and latch ProgramTooLarge, unless a fault is latched (the spec's decision
D15, log 19). -/
def Obligations.LoadWritesTheProgramOnly : Prop :=
  ∀ (bytes : List Byte) (s : State),
    (bytes.length ≤ 3584 → ∃ t, command (.load bytes) s = .next t ∧ t = { s with mem := t.mem } ∧
      (s.memWf = true → ∀ k b, bytes[k]? = some b → t.read (0x200 + k) = b) ∧
      ∀ a, a < 0x200 ∨ 0x200 + bytes.length ≤ a → t.read a = s.read a) ∧
    (3584 < bytes.length → s.fault = none → command (.load bytes) s =
      .next { s with fault := some ⟨.programTooLarge, 0#16, bytes.length⟩ }) ∧
    (3584 < bytes.length → s.fault ≠ none → command (.load bytes) s = .next s)

/-- 10_state.md R34 and 70_reset_and_hazards.md R230: the reset state, and that RESET from any state
gives the spec's cells those values. That the latch and the stack are cleared is the spec's decision
D19 (log 21). Addresses 0 to 79 get the FONT of this machine, whichever it is (log 2), each byte with the
pattern in bits 7 to 4 and 0 in bits 3 to 0 (20_memory.md R64), and the model's own fields keep their
values (log 2, 4). -/
def Obligations.ResetGivesTheResetValues : Prop :=
  ∀ s : State, ∃ t, command .reset s = .next t ∧
    t = { State.reset with font := s.font, rndIn := s.rndIn, rndDraws := s.rndDraws } ∧
    (∀ r, t.reg r = 0#8) ∧ t.pc = 0x200#16 ∧ t.i = 0#16 ∧ t.sp = 0 ∧
    (∀ j : Fin 16, t.stack[j] = 0#16) ∧ (∀ a : Fin 80, t.read a.val = s.font[a] ++ 0#4) ∧
    (∀ a, 80 ≤ a → t.read a = 0#8) ∧ t.dt = 0#8 ∧ t.st = 0#8 ∧
    (∀ p, t.pixels.get p = false) ∧ (∀ k, t.key k = false) ∧ t.fault = none

/-- 60_exceptions.md R202 and 45_external_commands.md R175: while a fault is latched a STEP has no
effect, no command but RESET changes the latch, and RESET clears it (the spec's decision D4,
log 17). -/
def Obligations.OnlyResetClearsTheFaultLatch : Prop :=
  ∀ (c : Command) (s t : State), s.fault ≠ none → command c s = .next t →
    (c ≠ .reset → t.fault = s.fault) ∧ (c = .reset → t.fault = none) ∧
    ∀ rnd, command (.step rnd) s = .next s

/-- 00_scope.md R6: STEP's operand `rnd` is read only by RND, where Vx becomes `rnd` AND nn; every other
STEP (another word, a fetch out of range, a fault latched) is `step` whatever the operand (the free
operand is the spec's decision D16, log 3). -/
def Obligations.StepOperandIsReadOnlyByRnd : Prop :=
  ∀ s : State,
    (∀ x nn rnd, s.fault = none → s.pc.toNat + 1 ≤ 4095 → decode s.fetchBytes = .ok (.rnd x nn, []) →
      ∃ t, command (.step rnd) s = .next t ∧ t = { s with pc := s.pc + 2#16, v := t.v } ∧
        t.reg x = rnd &&& nn ∧ ∀ r, r ≠ x → t.reg r = s.reg r) ∧
    ((s.fault = none → s.pc.toNat + 1 ≤ 4095 → ∀ x nn, decode s.fetchBytes ≠ .ok (.rnd x nn, [])) →
      ∀ rnd, command (.step rnd) s = step s)

/-! ## Rules over the whole instruction set -/

/-- The table of 10_state.md R25 over all instructions (the spec marks it as derived): `pc` after an
instruction that does not fault. -/
def Obligations.PcAfterEveryInstruction : Prop :=
  ∀ (i : Instr) (s t : State), s.fault = none → exec i s = .next t → t.fault = none →
    t.pc = pcAfter i s

/-- The table of 10_state.md R22 over all instructions (the spec marks it as derived): no instruction
writes a general register that the table does not name for it. -/
def Obligations.OnlyNamedRegistersAreWritten : Prop :=
  ∀ (i : Instr) (s t : State) (r : RegIdx), exec i s = .next t → ¬ writesReg i r →
    t.reg r = s.reg r

/-- 10_state.md R26 to R32 over all instructions: which of them may change `I`, `sp`, the stack, the
timers, the display and the fault latch; no instruction changes the key latch. That RET keeps the
entry it pops is the spec's decision D20 (log 20). The clauses on FONT (log 2) and on the random draw
(log 3) are about the model's own fields. -/
def Obligations.SpecialCellsChangeOnlyByTheirInstructions : Prop :=
  ∀ (i : Instr) (s t : State), exec i s = .next t →
    t.keys = s.keys ∧ t.font = s.font ∧
    (t.i = s.i ∨ (∃ a, i = .ldI a) ∨ (∃ x, i = .addI x) ∨ (∃ x, i = .ldF x)) ∧
    (t.sp = s.sp ∨ (∃ a, i = .call a) ∨ i = .ret) ∧
    (t.stack = s.stack ∨ ∃ a, i = .call a) ∧
    (t.dt = s.dt ∨ ∃ x, i = .ldDTVx x) ∧
    (t.st = s.st ∨ ∃ x, i = .ldSTVx x) ∧
    (t.pixels = s.pixels ∨ i = .cls ∨ ∃ x y n, i = .drw x y n) ∧
    ((t.rndIn = s.rndIn ∧ t.rndDraws = s.rndDraws) ∨ ∃ x nn, i = .rnd x nn) ∧
    (t.fault = s.fault ∨ (∃ a, i = .call a) ∨ i = .ret ∨ (∃ x y n, i = .drw x y n) ∨
      (∃ x, i = .ldB x ∨ i = .ldMemVx x ∨ i = .ldVxMem x ∨ i = .skp x ∨ i = .sknp x))

/-- The memory frame over all instructions (20_memory.md R54, R59): every byte outside the bytes that
the instruction stores to, computed from the base its meaning uses, reads as before. -/
def Obligations.MemoryChangesOnlyInTheStoredBytes : Prop :=
  ∀ (i : Instr) (s t : State) (a : Nat), exec i s = .next t → ¬ storesTo i s a →
    t.read a = s.read a

/-! ## Invariants and runs -/

/-- The memory's canonical form is an invariant of every STEP and of every command of the environment
(the model's own representation of 20_memory.md R50; log 22). -/
def Obligations.CanonicalMemoryIsKept : Prop :=
  (∀ s t : State, s.memWf = true → step s = .next t → t.memWf = true) ∧
  (∀ (c : Command) (s t : State), s.memWf = true → command c s = .next t → t.memWf = true)

/-- The fault latch always agrees with 60_exceptions.md R200 and, for the faults of a STEP, with the
state that the STEP found, the recorded value included (R203 to R206): an invariant of every STEP and
every command (the spec's decisions D3 to D5, log 17; which accesses fault, D2, D10 and D13, log 13
and 18). -/
def Obligations.FaultLatchStaysConsistent : Prop :=
  (∀ s t : State, s.latchConsistent → step s = .next t → t.latchConsistent) ∧
  (∀ (c : Command) (s t : State), s.latchConsistent → command c s = .next t → t.latchConsistent)

/-- 10_state.md R25 and 40_control_flow.md R102, R109: `pc` never exceeds 0x10FE and no return address
exceeds 4096: an invariant of every STEP and every command. -/
def Obligations.PcAndReturnAddressesStayBounded : Prop :=
  (∀ s t : State, s.pcBounded → step s = .next t → t.pcBounded) ∧
  (∀ (c : Command) (s t : State), s.pcBounded → command c s = .next t → t.pcBounded)

/-- The three invariants hold at reset. -/
def Obligations.InvariantsHoldAtReset : Prop :=
  State.reset.memWf = true ∧ State.reset.latchConsistent ∧ State.reset.pcBounded

/-- 45_external_commands.md R176: a terminated program is a fixed point of STEP. -/
def Obligations.TerminatedProgramIsAFixedPoint : Prop :=
  ∀ s : State, s.terminated → step s = .next s

/-- 30_encoding.md R76: through zeroed memory STEPs walk two bytes at a time doing nothing else, from any
state and for as long as the fetch is in range (the spec marks it as derived). -/
def Obligations.ZeroedMemoryIsWalkedAsNoOps : Prop :=
  ∀ (k : Nat) (s : State), s.fault = none → s.pc.toNat + 2 * k ≤ 4096 →
    (∀ a, s.pc.toNat ≤ a → a < s.pc.toNat + 2 * k → s.read a = 0#8) →
    Host.Core.run Sys2Proof.core k s = .next { s with pc := s.pc + BitVec.ofNat 16 (2 * k) }
end

