-- ==== Sys2Proof/Laws/Encoding.lean ====
section
/-! SUPPORT. The fields of the formats of 30_encoding.md R73, and bytes of words. -/

namespace Sys2Proof

variable (g : BitVec 4) (x y : RegIdx) (n : BitVec 4) (nn : Byte) (nnn : BitVec 12)

/-! ## The bytes of a word (20_memory.md R56) -/

/-- A word is its two bytes, high byte first. -/
@[simp] theorem wordOfBytes_bytes (w : Word) :
    wordOfBytes (w.extractLsb' 8 8) (w.extractLsb' 0 8) = w := by
  apply BitVec.eq_of_getLsbD_eq
  intro k hk
  simp only [wordOfBytes, BitVec.getLsbD_append, BitVec.getLsbD_extractLsb']
  by_cases h : k < 8
  · simp [h]
  · simp [h, show k - 8 < 8 by omega, show 8 + (k - 8) = k by omega]

/-- Decoding the bytes of a word, with more bytes after it. -/
theorem decode_bytes (w : Word) (rest : List Byte) :
    decode (bytesOfWord w ++ rest) = (decodeWord w).map fun i => (i, rest) := by
  simp [bytesOfWord, decode]

/-! ## Fields of an appended word -/

/-- The low part of an append. -/
theorem extract_low {p q : Nat} (a : BitVec p) (b : BitVec q) : (a ++ b).extractLsb' 0 q = b := by
  apply BitVec.eq_of_getLsbD_eq
  intro k hk
  simp [BitVec.getLsbD_append, hk]

/-- A field that lies in the low part of an append. -/
theorem extract_inLow {p q : Nat} (a : BitVec p) (b : BitVec q) (st len : Nat) (h : st + len ≤ q) :
    (a ++ b).extractLsb' st len = b.extractLsb' st len := by
  apply BitVec.eq_of_getLsbD_eq
  intro k hk
  simp [BitVec.getLsbD_append, hk, show st + k < q by omega]

/-- The high part of an append. -/
theorem extract_high {p q : Nat} (a : BitVec p) (b : BitVec q) : (a ++ b).extractLsb' q p = a := by
  apply BitVec.eq_of_getLsbD_eq
  intro k hk
  simp [BitVec.getLsbD_append, hk]

/-- A register number is the number of its bits. -/
@[simp] theorem toFin_regBits : (regBits x).toFin = x := rfl

@[simp] theorem fieldG_formatNNN : fieldG (formatNNN g nnn) = g := by
  unfold fieldG formatNNN; rw [extract_high]

@[simp] theorem fieldNNN_formatNNN : fieldNNN (formatNNN g nnn) = nnn := extract_low _ _

@[simp] theorem fieldG_formatXNN : fieldG (formatXNN g x nn) = g := by
  unfold fieldG formatXNN; rw [extract_high]

@[simp] theorem fieldX_formatXNN : fieldX (formatXNN g x nn) = x := by
  unfold fieldX formatXNN
  rw [extract_inLow _ _ _ _ (by decide), extract_high, toFin_regBits]

@[simp] theorem fieldNN_formatXNN : fieldNN (formatXNN g x nn) = nn := by
  unfold fieldNN formatXNN
  rw [extract_inLow _ _ _ _ (by decide), extract_low]

@[simp] theorem fieldG_formatXYN : fieldG (formatXYN g x y n) = g := by
  unfold fieldG formatXYN; rw [extract_high]

@[simp] theorem fieldX_formatXYN : fieldX (formatXYN g x y n) = x := by
  unfold fieldX formatXYN
  rw [extract_inLow _ _ _ _ (by decide), extract_high, toFin_regBits]

@[simp] theorem fieldY_formatXYN : fieldY (formatXYN g x y n) = y := by
  unfold fieldY formatXYN
  rw [extract_inLow _ _ _ _ (by decide), extract_inLow _ _ _ _ (by decide), extract_high,
    toFin_regBits]

@[simp] theorem fieldN_formatXYN : fieldN (formatXYN g x y n) = n := by
  unfold fieldN formatXYN
  rw [extract_inLow _ _ _ _ (by decide), extract_inLow _ _ _ _ (by decide), extract_low]

/-! ## A word is its fields -/

/-- Two neighbouring fields of a word, appended, are one wider field. -/
theorem append_fields {m : Nat} (w : BitVec m) (st p q : Nat) :
    w.extractLsb' (st + q) p ++ w.extractLsb' st q = w.extractLsb' st (p + q) := by
  apply BitVec.eq_of_getLsbD_eq
  intro k hk
  rw [BitVec.getLsbD_append]
  simp only [BitVec.getLsbD_extractLsb']
  by_cases h : k < q
  · simp [h, hk]
  · simp [h, hk, show k - q < p by omega, show st + q + (k - q) = st + k by omega]

/-- All 16 bits of a word are the word. -/
theorem extract_all (w : Word) : w.extractLsb' 0 16 = w := by
  apply BitVec.eq_of_getLsbD_eq
  intro k hk
  simp [hk]

/-- The bits of a register field are that field of the word. -/
theorem regBits_field (w : Word) (st : Nat) :
    regBits (w.extractLsb' st 4).toFin = w.extractLsb' st 4 := rfl

/-- Every word is its group and its low 12 bits. -/
theorem eq_formatNNN (w : Word) : formatNNN (fieldG w) (fieldNNN w) = w :=
  (append_fields w 0 4 12).trans (extract_all w)

/-- Every word is its group, `x` and `nn`. -/
theorem eq_formatXNN (w : Word) : formatXNN (fieldG w) (fieldX w) (fieldNN w) = w := by
  unfold formatXNN fieldX fieldNN
  rw [regBits_field]
  exact (congrArg (fieldG w ++ ·) (append_fields w 0 4 8)).trans (eq_formatNNN w)

/-- Every word is its four nibbles. -/
theorem eq_formatXYN (w : Word) :
    formatXYN (fieldG w) (fieldX w) (fieldY w) (fieldN w) = w := by
  refine Eq.trans ?_ (eq_formatXNN w)
  unfold formatXYN formatXNN fieldY fieldN fieldNN
  rw [regBits_field]
  exact congrArg (fun b : Byte => fieldG w ++ (regBits (fieldX w) ++ b))
    (append_fields w 0 4 4)

end Sys2Proof
end

