-- ==== Sys2Proof/Laws/Memory.lean ====
section
/-! SUPPORT. The laws of memory: reads after writes, and that every operation keeps the canonical
form. -/

namespace Sys2Proof.Machine.Memory

variable {font : Font}

/-! ## FONT -/

/-- Bits 3 to 0 of every font byte are 0, whichever FONT it is (20_memory.md R64). -/
@[simp] theorem font_byte_low (a : Fin 80) : font.byte a &&& 0x0F#8 = 0#8 := by
  have h : ∀ p : BitVec 4, (p ++ 0#4 : BitVec 8) &&& 0x0F#8 = 0#8 := by decide
  exact h font[a]

/-- The reset contents of the font region (20_memory.md R51). -/
theorem unlisted_font (a : Fin 80) : unlisted font a.val = font.byte a := dif_pos a.2

/-- The reset contents above the font region (20_memory.md R51). -/
theorem unlisted_zero {a : Nat} (h : 80 ≤ a) : unlisted font a = 0#8 := dif_neg (by omega)

/-! ## Reads and the canonical form of `cons` -/

/-- Putting a cell before a memory whose own cells are elsewhere changes that cell alone. -/
theorem read_cons (m : Memory) (a c : Nat) (b : Byte) (h : m.read font a = unlisted font a) :
    (cons font a b m).read font c = if a = c then b else m.read font c := by
  unfold cons
  split
  · rename_i hb
    split
    · rename_i hc; subst hc; rw [h, hb]
    · rfl
  · simp [read]

/-- A canonical memory whose cells start above `a` has no cell at `a`. -/
theorem read_below {m : Memory} {lo a : Nat} (hm : wfFrom font lo m = true) (ha : a < lo) :
    m.read font a = unlisted font a := by
  induction m generalizing lo with
  | nil => rfl
  | cons p m ih =>
    obtain ⟨c, d⟩ := p
    simp only [wfFrom, Bool.and_eq_true, decide_eq_true_eq] at hm
    have hc : c ≠ a := by omega
    simp only [read, hc, if_false]
    exact ih hm.2 (by omega)

/-- A canonical form above `hi` is one above every lower bound. -/
theorem wfFrom_mono {m : Memory} {lo hi : Nat} (h : wfFrom font hi m = true) (hle : lo ≤ hi) :
    wfFrom font lo m = true := by
  cases m with
  | nil => rfl
  | cons p m =>
    obtain ⟨c, d⟩ := p
    simp only [wfFrom, Bool.and_eq_true, decide_eq_true_eq] at h ⊢
    exact ⟨⟨⟨by omega, h.1.1.2⟩, h.1.2⟩, h.2⟩

/-- Putting a cell before a canonical memory that starts above it keeps the form. -/
theorem wfFrom_cons {m : Memory} {lo a : Nat} (b : Byte) (hm : wfFrom font (a + 1) m = true)
    (hlo : lo ≤ a) (ha : a < memSize) : wfFrom font lo (cons font a b m) = true := by
  unfold cons
  split
  · exact wfFrom_mono hm (by omega)
  · rename_i hb
    simp [wfFrom, hlo, ha, hb, hm]

/-! ## Writing one byte -/

/-- A write leaves every other byte alone (20_memory.md R54). -/
theorem read_write_other (m : Memory) (a c : Nat) (b : Byte) (h : a ≠ c) :
    (m.write font a b).read font c = m.read font c := by
  induction m with
  | nil => simp only [write, cons]; split <;> simp [read, h]
  | cons p m ih =>
    obtain ⟨e, d⟩ := p
    simp only [write]
    split
    · simp only [read, ih]
    · split
      · rename_i he; subst he
        simp only [cons]; split <;> simp [read, h]
      · simp only [cons]; split <;> simp [read, h]

/-- A write keeps the canonical form above a lower bound of the written address. -/
theorem wfFrom_write {m : Memory} {lo a : Nat} (b : Byte) (hm : wfFrom font lo m = true) (hlo : lo ≤ a)
    (ha : a < memSize) : wfFrom font lo (m.write font a b) = true := by
  induction m generalizing lo with
  | nil => exact wfFrom_cons b rfl hlo ha
  | cons p m ih =>
    obtain ⟨e, d⟩ := p
    have hp := hm
    simp only [wfFrom, Bool.and_eq_true, decide_eq_true_eq] at hp
    simp only [write]
    split
    · rename_i he
      simp only [wfFrom, Bool.and_eq_true, decide_eq_true_eq]
      exact ⟨hp.1, ih hp.2 (by omega)⟩
    · split
      · rename_i he; subst he
        exact wfFrom_cons b hp.2 hlo ha
      · refine wfFrom_cons b ?_ hlo ha
        simp only [wfFrom, Bool.and_eq_true, decide_eq_true_eq]
        exact ⟨⟨⟨by omega, hp.1.1.2⟩, hp.1.2⟩, hp.2⟩

/-- A read after a write to the same address gives the byte written (20_memory.md R60). -/
theorem read_write_same {m : Memory} {lo a : Nat} (b : Byte) (hm : wfFrom font lo m = true) :
    (m.write font a b).read font a = b := by
  induction m generalizing lo with
  | nil => rw [write, read_cons _ _ _ _ rfl, if_pos rfl]
  | cons p m ih =>
    obtain ⟨e, d⟩ := p
    have hp := hm
    simp only [wfFrom, Bool.and_eq_true, decide_eq_true_eq] at hp
    simp only [write]
    split
    · rename_i he
      have hne : e ≠ a := by omega
      simp only [read, hne, if_false]
      exact ih hp.2
    · split
      · rename_i he; subst he
        rw [read_cons _ _ _ _ (read_below hp.2 (by omega)), if_pos rfl]
      · have hbelow : read font ((e, d) :: m) a = unlisted font a := by
          have hne : e ≠ a := by omega
          simp only [read, hne, if_false]
          exact read_below hp.2 (by omega)
        rw [read_cons _ _ _ _ hbelow, if_pos rfl]

/-- A write inside the address space keeps the canonical form. -/
theorem wf_write {m : Memory} (a : Nat) (b : Byte) (hm : m.wf font = true) (ha : a < memSize) :
    (m.write font a b).wf font = true := wfFrom_write b hm (Nat.zero_le a) ha

/-- A canonical memory after a write, byte by byte. -/
theorem read_write {m : Memory} (hm : m.wf font = true) (a c : Nat) (b : Byte) :
    (m.write font a b).read font c = if a = c then b else m.read font c := by
  split
  · rename_i h; subst h; exact read_write_same b hm
  · rename_i h; exact read_write_other m a c b h

/-! ## Ranges of bytes -/

/-- A store leaves every byte outside its range alone (20_memory.md R57). -/
theorem read_storeBytes_outside (m : Memory) (a c : Nat) (bs : List Byte)
    (h : c < a ∨ a + bs.length ≤ c) : (m.storeBytes font a bs).read font c = m.read font c := by
  induction bs generalizing m a with
  | nil => rfl
  | cons b bs ih =>
    simp only [List.length_cons] at h
    rw [storeBytes, ih _ _ (by omega), read_write_other _ _ _ _ (by omega)]

/-- A store inside the address space keeps the canonical form. -/
theorem wf_storeBytes {m : Memory} (a : Nat) (bs : List Byte) (hm : m.wf font = true)
    (h : a + bs.length ≤ memSize) : (m.storeBytes font a bs).wf font = true := by
  induction bs generalizing m a with
  | nil => exact hm
  | cons b bs ih =>
    simp only [List.length_cons] at h
    exact ih (a + 1) (wf_write a b hm (by omega)) (by omega)

/-- Each stored byte reads back (20_memory.md R57, R62). -/
theorem read_storeBytes_inside {m : Memory} (a : Nat) (bs : List Byte) (hm : m.wf font = true)
    (h : a + bs.length ≤ memSize) (k : Nat) (hk : k < bs.length) :
    (m.storeBytes font a bs).read font (a + k) = bs[k] := by
  induction bs generalizing m a k with
  | nil => simp at hk
  | cons b bs ih =>
    simp only [List.length_cons] at h hk
    have hw : (m.write font a b).wf font = true := wf_write a b hm (by omega)
    cases k with
    | zero =>
      rw [storeBytes, read_storeBytes_outside _ _ _ _ (by omega)]
      exact read_write_same b hm
    | succ k =>
      have := ih (a + 1) hw (by omega) k (by omega)
      rw [storeBytes, show a + (k + 1) = a + 1 + k by omega, this]
      rfl

/-- A load of n bytes gives n bytes. -/
@[simp] theorem length_loadBytes (m : Memory) (a n : Nat) : (m.loadBytes font a n).length = n := by
  induction n generalizing a with
  | zero => rfl
  | succ n ih => simp [loadBytes, ih]

/-- Byte k of a load is the byte at `a + k` (20_memory.md R57). -/
@[simp] theorem getElem_loadBytes (m : Memory) (a n k : Nat) (h : k < (m.loadBytes font a n).length) :
    (m.loadBytes font a n)[k] = m.read font (a + k) := by
  induction n generalizing a k with
  | zero => simp at h
  | succ n ih =>
    cases k with
    | zero => rfl
    | succ k =>
      simp only [loadBytes, List.getElem_cons_succ]
      rw [ih, show a + 1 + k = a + (k + 1) by omega]

/-- Loads depend on the bytes of their range alone. -/
theorem loadBytes_congr {m m' : Memory} (a n : Nat)
    (h : ∀ k < n, m.read font (a + k) = m'.read font (a + k)) : m.loadBytes font a n = m'.loadBytes font a n := by
  apply List.ext_getElem (by simp)
  intro k h1 h2
  simp only [length_loadBytes] at h1
  simp [h k h1]

/-- A load of the range just stored gives the bytes stored (20_memory.md R62). -/
theorem loadBytes_storeBytes {m : Memory} (a : Nat) (bs : List Byte) (hm : m.wf font = true)
    (h : a + bs.length ≤ memSize) : (m.storeBytes font a bs).loadBytes font a bs.length = bs := by
  apply List.ext_getElem (by simp)
  intro k _ h2
  rw [getElem_loadBytes, read_storeBytes_inside a bs hm h k h2]

end Sys2Proof.Machine.Memory

namespace Sys2Proof.Machine

/-- The range check of at least one byte, as arithmetic (20_memory.md R53). -/
theorem accessOk_iff (a n : Nat) : accessOk a n = true ↔ n = 0 ∨ a + n ≤ 4096 := by
  rw [accessOk, Bool.or_eq_true, beq_iff_eq, decide_eq_true_eq, memSize]

end Sys2Proof.Machine
end

