-- ==== Sys2Proof/Laws/State.lean ====
section
/-! SUPPORT. One lemma per field per update of the state: what an update changes and what it leaves. -/

namespace Sys2Proof.Machine.State

variable (s : State)

/-! ## setReg -/

@[simp] theorem setReg_v (x : RegIdx) (b : Byte) : (s.setReg x b).v = s.v.set x.val b := rfl
@[simp] theorem setReg_pc (x : RegIdx) (b : Byte) : (s.setReg x b).pc = s.pc := rfl
@[simp] theorem setReg_i (x : RegIdx) (b : Byte) : (s.setReg x b).i = s.i := rfl
@[simp] theorem setReg_sp (x : RegIdx) (b : Byte) : (s.setReg x b).sp = s.sp := rfl
@[simp] theorem setReg_stack (x : RegIdx) (b : Byte) : (s.setReg x b).stack = s.stack := rfl
@[simp] theorem setReg_mem (x : RegIdx) (b : Byte) : (s.setReg x b).mem = s.mem := rfl
@[simp] theorem setReg_dt (x : RegIdx) (b : Byte) : (s.setReg x b).dt = s.dt := rfl
@[simp] theorem setReg_st (x : RegIdx) (b : Byte) : (s.setReg x b).st = s.st := rfl
@[simp] theorem setReg_pixels (x : RegIdx) (b : Byte) : (s.setReg x b).pixels = s.pixels := rfl
@[simp] theorem setReg_keys (x : RegIdx) (b : Byte) : (s.setReg x b).keys = s.keys := rfl
@[simp] theorem setReg_fault (x : RegIdx) (b : Byte) : (s.setReg x b).fault = s.fault := rfl
@[simp] theorem setReg_rndIn (x : RegIdx) (b : Byte) : (s.setReg x b).rndIn = s.rndIn := rfl
@[simp] theorem setReg_font (x : RegIdx) (b : Byte) : (s.setReg x b).font = s.font := rfl
@[simp] theorem setReg_rndDraws (x : RegIdx) (b : Byte) : (s.setReg x b).rndDraws = s.rndDraws := rfl

/-! ## setFlag -/

@[simp] theorem setFlag_v (f : Bool) : (s.setFlag f).v = s.v.set 15 (flagByte f) := rfl
@[simp] theorem setFlag_pc (f : Bool) : (s.setFlag f).pc = s.pc := rfl
@[simp] theorem setFlag_i (f : Bool) : (s.setFlag f).i = s.i := rfl
@[simp] theorem setFlag_sp (f : Bool) : (s.setFlag f).sp = s.sp := rfl
@[simp] theorem setFlag_stack (f : Bool) : (s.setFlag f).stack = s.stack := rfl
@[simp] theorem setFlag_mem (f : Bool) : (s.setFlag f).mem = s.mem := rfl
@[simp] theorem setFlag_dt (f : Bool) : (s.setFlag f).dt = s.dt := rfl
@[simp] theorem setFlag_st (f : Bool) : (s.setFlag f).st = s.st := rfl
@[simp] theorem setFlag_pixels (f : Bool) : (s.setFlag f).pixels = s.pixels := rfl
@[simp] theorem setFlag_keys (f : Bool) : (s.setFlag f).keys = s.keys := rfl
@[simp] theorem setFlag_fault (f : Bool) : (s.setFlag f).fault = s.fault := rfl
@[simp] theorem setFlag_rndIn (f : Bool) : (s.setFlag f).rndIn = s.rndIn := rfl
@[simp] theorem setFlag_font (f : Bool) : (s.setFlag f).font = s.font := rfl
@[simp] theorem setFlag_rndDraws (f : Bool) : (s.setFlag f).rndDraws = s.rndDraws := rfl

/-! ## loadRegs -/

@[simp] theorem loadRegs_pc (x : RegIdx) (a : Nat) : (s.loadRegs x a).pc = s.pc := rfl
@[simp] theorem loadRegs_i (x : RegIdx) (a : Nat) : (s.loadRegs x a).i = s.i := rfl
@[simp] theorem loadRegs_sp (x : RegIdx) (a : Nat) : (s.loadRegs x a).sp = s.sp := rfl
@[simp] theorem loadRegs_stack (x : RegIdx) (a : Nat) : (s.loadRegs x a).stack = s.stack := rfl
@[simp] theorem loadRegs_mem (x : RegIdx) (a : Nat) : (s.loadRegs x a).mem = s.mem := rfl
@[simp] theorem loadRegs_dt (x : RegIdx) (a : Nat) : (s.loadRegs x a).dt = s.dt := rfl
@[simp] theorem loadRegs_st (x : RegIdx) (a : Nat) : (s.loadRegs x a).st = s.st := rfl
@[simp] theorem loadRegs_pixels (x : RegIdx) (a : Nat) : (s.loadRegs x a).pixels = s.pixels := rfl
@[simp] theorem loadRegs_keys (x : RegIdx) (a : Nat) : (s.loadRegs x a).keys = s.keys := rfl
@[simp] theorem loadRegs_fault (x : RegIdx) (a : Nat) : (s.loadRegs x a).fault = s.fault := rfl
@[simp] theorem loadRegs_rndIn (x : RegIdx) (a : Nat) : (s.loadRegs x a).rndIn = s.rndIn := rfl
@[simp] theorem loadRegs_font (x : RegIdx) (a : Nat) : (s.loadRegs x a).font = s.font := rfl
@[simp] theorem loadRegs_rndDraws (x : RegIdx) (a : Nat) : (s.loadRegs x a).rndDraws = s.rndDraws := rfl

/-! ## setPc -/

@[simp] theorem setPc_v (a : Word) : (s.setPc a).v = s.v := rfl
@[simp] theorem setPc_pc (a : Word) : (s.setPc a).pc = a := rfl
@[simp] theorem setPc_i (a : Word) : (s.setPc a).i = s.i := rfl
@[simp] theorem setPc_sp (a : Word) : (s.setPc a).sp = s.sp := rfl
@[simp] theorem setPc_stack (a : Word) : (s.setPc a).stack = s.stack := rfl
@[simp] theorem setPc_mem (a : Word) : (s.setPc a).mem = s.mem := rfl
@[simp] theorem setPc_dt (a : Word) : (s.setPc a).dt = s.dt := rfl
@[simp] theorem setPc_st (a : Word) : (s.setPc a).st = s.st := rfl
@[simp] theorem setPc_pixels (a : Word) : (s.setPc a).pixels = s.pixels := rfl
@[simp] theorem setPc_keys (a : Word) : (s.setPc a).keys = s.keys := rfl
@[simp] theorem setPc_fault (a : Word) : (s.setPc a).fault = s.fault := rfl
@[simp] theorem setPc_rndIn (a : Word) : (s.setPc a).rndIn = s.rndIn := rfl
@[simp] theorem setPc_font (a : Word) : (s.setPc a).font = s.font := rfl
@[simp] theorem setPc_rndDraws (a : Word) : (s.setPc a).rndDraws = s.rndDraws := rfl

/-! ## advance -/

@[simp] theorem advance_v : (s.advance).v = s.v := rfl
@[simp] theorem advance_pc : (s.advance).pc = s.pc + 2#16 := rfl
@[simp] theorem advance_i : (s.advance).i = s.i := rfl
@[simp] theorem advance_sp : (s.advance).sp = s.sp := rfl
@[simp] theorem advance_stack : (s.advance).stack = s.stack := rfl
@[simp] theorem advance_mem : (s.advance).mem = s.mem := rfl
@[simp] theorem advance_dt : (s.advance).dt = s.dt := rfl
@[simp] theorem advance_st : (s.advance).st = s.st := rfl
@[simp] theorem advance_pixels : (s.advance).pixels = s.pixels := rfl
@[simp] theorem advance_keys : (s.advance).keys = s.keys := rfl
@[simp] theorem advance_fault : (s.advance).fault = s.fault := rfl
@[simp] theorem advance_rndIn : (s.advance).rndIn = s.rndIn := rfl
@[simp] theorem advance_font : (s.advance).font = s.font := rfl
@[simp] theorem advance_rndDraws : (s.advance).rndDraws = s.rndDraws := rfl

/-! ## setI -/

@[simp] theorem setI_v (a : Word) : (s.setI a).v = s.v := rfl
@[simp] theorem setI_pc (a : Word) : (s.setI a).pc = s.pc := rfl
@[simp] theorem setI_i (a : Word) : (s.setI a).i = a := rfl
@[simp] theorem setI_sp (a : Word) : (s.setI a).sp = s.sp := rfl
@[simp] theorem setI_stack (a : Word) : (s.setI a).stack = s.stack := rfl
@[simp] theorem setI_mem (a : Word) : (s.setI a).mem = s.mem := rfl
@[simp] theorem setI_dt (a : Word) : (s.setI a).dt = s.dt := rfl
@[simp] theorem setI_st (a : Word) : (s.setI a).st = s.st := rfl
@[simp] theorem setI_pixels (a : Word) : (s.setI a).pixels = s.pixels := rfl
@[simp] theorem setI_keys (a : Word) : (s.setI a).keys = s.keys := rfl
@[simp] theorem setI_fault (a : Word) : (s.setI a).fault = s.fault := rfl
@[simp] theorem setI_rndIn (a : Word) : (s.setI a).rndIn = s.rndIn := rfl
@[simp] theorem setI_font (a : Word) : (s.setI a).font = s.font := rfl
@[simp] theorem setI_rndDraws (a : Word) : (s.setI a).rndDraws = s.rndDraws := rfl

/-! ## setDt -/

@[simp] theorem setDt_v (b : Byte) : (s.setDt b).v = s.v := rfl
@[simp] theorem setDt_pc (b : Byte) : (s.setDt b).pc = s.pc := rfl
@[simp] theorem setDt_i (b : Byte) : (s.setDt b).i = s.i := rfl
@[simp] theorem setDt_sp (b : Byte) : (s.setDt b).sp = s.sp := rfl
@[simp] theorem setDt_stack (b : Byte) : (s.setDt b).stack = s.stack := rfl
@[simp] theorem setDt_mem (b : Byte) : (s.setDt b).mem = s.mem := rfl
@[simp] theorem setDt_dt (b : Byte) : (s.setDt b).dt = b := rfl
@[simp] theorem setDt_st (b : Byte) : (s.setDt b).st = s.st := rfl
@[simp] theorem setDt_pixels (b : Byte) : (s.setDt b).pixels = s.pixels := rfl
@[simp] theorem setDt_keys (b : Byte) : (s.setDt b).keys = s.keys := rfl
@[simp] theorem setDt_fault (b : Byte) : (s.setDt b).fault = s.fault := rfl
@[simp] theorem setDt_rndIn (b : Byte) : (s.setDt b).rndIn = s.rndIn := rfl
@[simp] theorem setDt_font (b : Byte) : (s.setDt b).font = s.font := rfl
@[simp] theorem setDt_rndDraws (b : Byte) : (s.setDt b).rndDraws = s.rndDraws := rfl

/-! ## setSt -/

@[simp] theorem setSt_v (b : Byte) : (s.setSt b).v = s.v := rfl
@[simp] theorem setSt_pc (b : Byte) : (s.setSt b).pc = s.pc := rfl
@[simp] theorem setSt_i (b : Byte) : (s.setSt b).i = s.i := rfl
@[simp] theorem setSt_sp (b : Byte) : (s.setSt b).sp = s.sp := rfl
@[simp] theorem setSt_stack (b : Byte) : (s.setSt b).stack = s.stack := rfl
@[simp] theorem setSt_mem (b : Byte) : (s.setSt b).mem = s.mem := rfl
@[simp] theorem setSt_dt (b : Byte) : (s.setSt b).dt = s.dt := rfl
@[simp] theorem setSt_st (b : Byte) : (s.setSt b).st = b := rfl
@[simp] theorem setSt_pixels (b : Byte) : (s.setSt b).pixels = s.pixels := rfl
@[simp] theorem setSt_keys (b : Byte) : (s.setSt b).keys = s.keys := rfl
@[simp] theorem setSt_fault (b : Byte) : (s.setSt b).fault = s.fault := rfl
@[simp] theorem setSt_rndIn (b : Byte) : (s.setSt b).rndIn = s.rndIn := rfl
@[simp] theorem setSt_font (b : Byte) : (s.setSt b).font = s.font := rfl
@[simp] theorem setSt_rndDraws (b : Byte) : (s.setSt b).rndDraws = s.rndDraws := rfl

/-! ## setMem -/

@[simp] theorem setMem_v (m : Memory) : (s.setMem m).v = s.v := rfl
@[simp] theorem setMem_pc (m : Memory) : (s.setMem m).pc = s.pc := rfl
@[simp] theorem setMem_i (m : Memory) : (s.setMem m).i = s.i := rfl
@[simp] theorem setMem_sp (m : Memory) : (s.setMem m).sp = s.sp := rfl
@[simp] theorem setMem_stack (m : Memory) : (s.setMem m).stack = s.stack := rfl
@[simp] theorem setMem_mem (m : Memory) : (s.setMem m).mem = m := rfl
@[simp] theorem setMem_dt (m : Memory) : (s.setMem m).dt = s.dt := rfl
@[simp] theorem setMem_st (m : Memory) : (s.setMem m).st = s.st := rfl
@[simp] theorem setMem_pixels (m : Memory) : (s.setMem m).pixels = s.pixels := rfl
@[simp] theorem setMem_keys (m : Memory) : (s.setMem m).keys = s.keys := rfl
@[simp] theorem setMem_fault (m : Memory) : (s.setMem m).fault = s.fault := rfl
@[simp] theorem setMem_rndIn (m : Memory) : (s.setMem m).rndIn = s.rndIn := rfl
@[simp] theorem setMem_font (m : Memory) : (s.setMem m).font = s.font := rfl
@[simp] theorem setMem_rndDraws (m : Memory) : (s.setMem m).rndDraws = s.rndDraws := rfl

/-! ## storeBytes -/

@[simp] theorem storeBytes_v (a : Nat) (bs : List Byte) : (s.storeBytes a bs).v = s.v := rfl
@[simp] theorem storeBytes_pc (a : Nat) (bs : List Byte) : (s.storeBytes a bs).pc = s.pc := rfl
@[simp] theorem storeBytes_i (a : Nat) (bs : List Byte) : (s.storeBytes a bs).i = s.i := rfl
@[simp] theorem storeBytes_sp (a : Nat) (bs : List Byte) : (s.storeBytes a bs).sp = s.sp := rfl
@[simp] theorem storeBytes_stack (a : Nat) (bs : List Byte) : (s.storeBytes a bs).stack = s.stack := rfl
@[simp] theorem storeBytes_dt (a : Nat) (bs : List Byte) : (s.storeBytes a bs).dt = s.dt := rfl
@[simp] theorem storeBytes_st (a : Nat) (bs : List Byte) : (s.storeBytes a bs).st = s.st := rfl
@[simp] theorem storeBytes_pixels (a : Nat) (bs : List Byte) : (s.storeBytes a bs).pixels = s.pixels := rfl
@[simp] theorem storeBytes_keys (a : Nat) (bs : List Byte) : (s.storeBytes a bs).keys = s.keys := rfl
@[simp] theorem storeBytes_fault (a : Nat) (bs : List Byte) : (s.storeBytes a bs).fault = s.fault := rfl
@[simp] theorem storeBytes_font (a : Nat) (bs : List Byte) : (s.storeBytes a bs).font = s.font := rfl
@[simp] theorem storeBytes_rndIn (a : Nat) (bs : List Byte) : (s.storeBytes a bs).rndIn = s.rndIn := rfl
@[simp] theorem storeBytes_rndDraws (a : Nat) (bs : List Byte) : (s.storeBytes a bs).rndDraws = s.rndDraws := rfl
@[simp] theorem storeBytes_mem (a : Nat) (bs : List Byte) :
    (s.storeBytes a bs).mem = s.mem.storeBytes s.font a bs := rfl

/-! ## setPixels -/

@[simp] theorem setPixels_v (d : Display) : (s.setPixels d).v = s.v := rfl
@[simp] theorem setPixels_pc (d : Display) : (s.setPixels d).pc = s.pc := rfl
@[simp] theorem setPixels_i (d : Display) : (s.setPixels d).i = s.i := rfl
@[simp] theorem setPixels_sp (d : Display) : (s.setPixels d).sp = s.sp := rfl
@[simp] theorem setPixels_stack (d : Display) : (s.setPixels d).stack = s.stack := rfl
@[simp] theorem setPixels_mem (d : Display) : (s.setPixels d).mem = s.mem := rfl
@[simp] theorem setPixels_dt (d : Display) : (s.setPixels d).dt = s.dt := rfl
@[simp] theorem setPixels_st (d : Display) : (s.setPixels d).st = s.st := rfl
@[simp] theorem setPixels_pixels (d : Display) : (s.setPixels d).pixels = d := rfl
@[simp] theorem setPixels_keys (d : Display) : (s.setPixels d).keys = s.keys := rfl
@[simp] theorem setPixels_fault (d : Display) : (s.setPixels d).fault = s.fault := rfl
@[simp] theorem setPixels_rndIn (d : Display) : (s.setPixels d).rndIn = s.rndIn := rfl
@[simp] theorem setPixels_font (d : Display) : (s.setPixels d).font = s.font := rfl
@[simp] theorem setPixels_rndDraws (d : Display) : (s.setPixels d).rndDraws = s.rndDraws := rfl

/-! ## skipIf, latch, rndConsumed -/

@[simp] theorem skipIf_v (c : Bool) : (s.skipIf c).v = s.v := by unfold skipIf; split <;> rfl
@[simp] theorem skipIf_i (c : Bool) : (s.skipIf c).i = s.i := by unfold skipIf; split <;> rfl
@[simp] theorem skipIf_sp (c : Bool) : (s.skipIf c).sp = s.sp := by unfold skipIf; split <;> rfl
@[simp] theorem skipIf_stack (c : Bool) : (s.skipIf c).stack = s.stack := by unfold skipIf; split <;> rfl
@[simp] theorem skipIf_mem (c : Bool) : (s.skipIf c).mem = s.mem := by unfold skipIf; split <;> rfl
@[simp] theorem skipIf_dt (c : Bool) : (s.skipIf c).dt = s.dt := by unfold skipIf; split <;> rfl
@[simp] theorem skipIf_st (c : Bool) : (s.skipIf c).st = s.st := by unfold skipIf; split <;> rfl
@[simp] theorem skipIf_pixels (c : Bool) : (s.skipIf c).pixels = s.pixels := by unfold skipIf; split <;> rfl
@[simp] theorem skipIf_keys (c : Bool) : (s.skipIf c).keys = s.keys := by unfold skipIf; split <;> rfl
@[simp] theorem skipIf_fault (c : Bool) : (s.skipIf c).fault = s.fault := by unfold skipIf; split <;> rfl
@[simp] theorem skipIf_rndIn (c : Bool) : (s.skipIf c).rndIn = s.rndIn := by unfold skipIf; split <;> rfl
@[simp] theorem skipIf_font (c : Bool) : (s.skipIf c).font = s.font := by unfold skipIf; split <;> rfl
@[simp] theorem skipIf_rndDraws (c : Bool) : (s.skipIf c).rndDraws = s.rndDraws := by unfold skipIf; split <;> rfl

@[simp] theorem latch_v (f : FaultRecord) : (s.latch f).v = s.v := by unfold latch; split <;> rfl
@[simp] theorem latch_pc (f : FaultRecord) : (s.latch f).pc = s.pc := by unfold latch; split <;> rfl
@[simp] theorem latch_i (f : FaultRecord) : (s.latch f).i = s.i := by unfold latch; split <;> rfl
@[simp] theorem latch_sp (f : FaultRecord) : (s.latch f).sp = s.sp := by unfold latch; split <;> rfl
@[simp] theorem latch_stack (f : FaultRecord) : (s.latch f).stack = s.stack := by unfold latch; split <;> rfl
@[simp] theorem latch_mem (f : FaultRecord) : (s.latch f).mem = s.mem := by unfold latch; split <;> rfl
@[simp] theorem latch_dt (f : FaultRecord) : (s.latch f).dt = s.dt := by unfold latch; split <;> rfl
@[simp] theorem latch_st (f : FaultRecord) : (s.latch f).st = s.st := by unfold latch; split <;> rfl
@[simp] theorem latch_pixels (f : FaultRecord) : (s.latch f).pixels = s.pixels := by unfold latch; split <;> rfl
@[simp] theorem latch_keys (f : FaultRecord) : (s.latch f).keys = s.keys := by unfold latch; split <;> rfl
@[simp] theorem latch_rndIn (f : FaultRecord) : (s.latch f).rndIn = s.rndIn := by unfold latch; split <;> rfl
@[simp] theorem latch_font (f : FaultRecord) : (s.latch f).font = s.font := by unfold latch; split <;> rfl
@[simp] theorem latch_rndDraws (f : FaultRecord) : (s.latch f).rndDraws = s.rndDraws := by unfold latch; split <;> rfl

@[simp] theorem rndConsumed_v : (s.rndConsumed).v = s.v := by unfold rndConsumed; split <;> rfl
@[simp] theorem rndConsumed_pc : (s.rndConsumed).pc = s.pc := by unfold rndConsumed; split <;> rfl
@[simp] theorem rndConsumed_i : (s.rndConsumed).i = s.i := by unfold rndConsumed; split <;> rfl
@[simp] theorem rndConsumed_sp : (s.rndConsumed).sp = s.sp := by unfold rndConsumed; split <;> rfl
@[simp] theorem rndConsumed_stack : (s.rndConsumed).stack = s.stack := by unfold rndConsumed; split <;> rfl
@[simp] theorem rndConsumed_mem : (s.rndConsumed).mem = s.mem := by unfold rndConsumed; split <;> rfl
@[simp] theorem rndConsumed_dt : (s.rndConsumed).dt = s.dt := by unfold rndConsumed; split <;> rfl
@[simp] theorem rndConsumed_st : (s.rndConsumed).st = s.st := by unfold rndConsumed; split <;> rfl
@[simp] theorem rndConsumed_pixels : (s.rndConsumed).pixels = s.pixels := by unfold rndConsumed; split <;> rfl
@[simp] theorem rndConsumed_keys : (s.rndConsumed).keys = s.keys := by unfold rndConsumed; split <;> rfl
@[simp] theorem rndConsumed_fault : (s.rndConsumed).fault = s.fault := by unfold rndConsumed; split <;> rfl
@[simp] theorem rndConsumed_font : (s.rndConsumed).font = s.font := by unfold rndConsumed; split <;> rfl

/-- A skip moves `pc` on by 2 where it is taken (40_control_flow.md section 4). -/
@[simp] theorem skipIf_pc (c : Bool) : (s.skipIf c).pc = if c then s.pc + 2#16 else s.pc := by
  unfold skipIf; split <;> rfl

/-- An empty latch takes the fault (60_exceptions.md R201). -/
theorem latch_empty (f : FaultRecord) (h : s.fault = none) :
    s.latch f = { s with fault := some f } := by
  simp [latch, h]

/-- A latch that holds a fault keeps it (60_exceptions.md R202). -/
theorem latch_full (f : FaultRecord) (h : s.fault ≠ none) : s.latch f = s := by
  unfold latch; split
  · contradiction
  · rfl

/-! ## Registers -/

/-- Reading a register after writing one. -/
@[simp] theorem reg_setReg (x y : RegIdx) (b : Byte) :
    (s.setReg x b).reg y = if x = y then b else s.reg y := by
  simp [reg, setReg, Vector.getElem_set, Fin.ext_iff]

/-- Reading a register after a flag write: only VF changes (10_state.md R33). -/
@[simp] theorem reg_setFlag (f : Bool) (y : RegIdx) :
    (s.setFlag f).reg y = if vf = y then flagByte f else s.reg y := reg_setReg s vf y _

/-- Reading a register after a register load (42_index_memory.md R145). -/
@[simp] theorem reg_loadRegs (x y : RegIdx) (a : Nat) :
    (s.loadRegs x a).reg y = if y ≤ x then s.read (a + y.val) else s.reg y := by
  simp [reg, loadRegs]

/-- Registers depend on `v` alone. -/
theorem reg_congr {s t : State} (h : s.v = t.v) (x : RegIdx) : s.reg x = t.reg x := by
  simp [reg, h]

@[simp] theorem reg_setPc (a : Word) (y : RegIdx) : (s.setPc a).reg y = s.reg y := rfl
@[simp] theorem reg_advance (y : RegIdx) : (s.advance).reg y = s.reg y := rfl
@[simp] theorem reg_setI (a : Word) (y : RegIdx) : (s.setI a).reg y = s.reg y := rfl
@[simp] theorem reg_setDt (b : Byte) (y : RegIdx) : (s.setDt b).reg y = s.reg y := rfl
@[simp] theorem reg_setSt (b : Byte) (y : RegIdx) : (s.setSt b).reg y = s.reg y := rfl
@[simp] theorem reg_setMem (m : Memory) (y : RegIdx) : (s.setMem m).reg y = s.reg y := rfl
@[simp] theorem reg_storeBytes (a : Nat) (bs : List Byte) (y : RegIdx) :
    (s.storeBytes a bs).reg y = s.reg y := rfl
@[simp] theorem reg_setPixels (d : Display) (y : RegIdx) : (s.setPixels d).reg y = s.reg y := rfl
@[simp] theorem reg_skipIf (c : Bool) (y : RegIdx) : (s.skipIf c).reg y = s.reg y := reg_congr (by simp) y
@[simp] theorem reg_latch (f : FaultRecord) (y : RegIdx) : (s.latch f).reg y = s.reg y := reg_congr (by simp) y
@[simp] theorem reg_rndConsumed (y : RegIdx) : (s.rndConsumed).reg y = s.reg y := reg_congr (by simp) y

/-! ## Reads of memory -/

/-- Reads depend on the memory and FONT alone. -/
theorem read_congr {s t : State} (h : s.mem = t.mem) (hf : s.font = t.font) (a : Nat) :
    s.read a = t.read a := by rw [read, read, h, hf]

@[simp] theorem read_setReg (x : RegIdx) (b : Byte) (a : Nat) : (s.setReg x b).read a = s.read a := rfl
@[simp] theorem read_setFlag (f : Bool) (a : Nat) : (s.setFlag f).read a = s.read a := rfl
@[simp] theorem read_loadRegs (x : RegIdx) (c a : Nat) : (s.loadRegs x c).read a = s.read a := rfl
@[simp] theorem read_setPc (w : Word) (a : Nat) : (s.setPc w).read a = s.read a := rfl
@[simp] theorem read_advance (a : Nat) : s.advance.read a = s.read a := rfl
@[simp] theorem read_setI (w : Word) (a : Nat) : (s.setI w).read a = s.read a := rfl
@[simp] theorem read_setDt (b : Byte) (a : Nat) : (s.setDt b).read a = s.read a := rfl
@[simp] theorem read_setSt (b : Byte) (a : Nat) : (s.setSt b).read a = s.read a := rfl
@[simp] theorem read_setPixels (d : Display) (a : Nat) : (s.setPixels d).read a = s.read a := rfl
@[simp] theorem read_skipIf (c : Bool) (a : Nat) : (s.skipIf c).read a = s.read a :=
  read_congr (by simp) (by simp) a
@[simp] theorem read_latch (f : FaultRecord) (a : Nat) : (s.latch f).read a = s.read a :=
  read_congr (by simp) (by simp) a
@[simp] theorem read_rndConsumed (a : Nat) : s.rndConsumed.read a = s.read a :=
  read_congr (by simp) (by simp) a

/-! ## The canonical form -/

/-- The canonical form depends on the memory and FONT alone. -/
theorem memWf_congr {s t : State} (h : s.mem = t.mem) (hf : s.font = t.font) :
    s.memWf = t.memWf := by rw [memWf, memWf, h, hf]

@[simp] theorem memWf_setReg (x : RegIdx) (b : Byte) : (s.setReg x b).memWf = s.memWf := rfl
@[simp] theorem memWf_setFlag (f : Bool) : (s.setFlag f).memWf = s.memWf := rfl
@[simp] theorem memWf_loadRegs (x : RegIdx) (c : Nat) : (s.loadRegs x c).memWf = s.memWf := rfl
@[simp] theorem memWf_setPc (w : Word) : (s.setPc w).memWf = s.memWf := rfl
@[simp] theorem memWf_advance : s.advance.memWf = s.memWf := rfl
@[simp] theorem memWf_setI (w : Word) : (s.setI w).memWf = s.memWf := rfl
@[simp] theorem memWf_setDt (b : Byte) : (s.setDt b).memWf = s.memWf := rfl
@[simp] theorem memWf_setSt (b : Byte) : (s.setSt b).memWf = s.memWf := rfl
@[simp] theorem memWf_setPixels (d : Display) : (s.setPixels d).memWf = s.memWf := rfl
@[simp] theorem memWf_skipIf (c : Bool) : (s.skipIf c).memWf = s.memWf :=
  memWf_congr (by simp) (by simp)
@[simp] theorem memWf_latch (f : FaultRecord) : (s.latch f).memWf = s.memWf :=
  memWf_congr (by simp) (by simp)
@[simp] theorem memWf_rndConsumed : s.rndConsumed.memWf = s.memWf :=
  memWf_congr (by simp) (by simp)

end Sys2Proof.Machine.State
end

