-- ==== Sys2Proof/Laws/Ops.lean ====
section
/-! SUPPORT. What each shared operation can do, said once: faults, the range guard, the call stack, key
numbers, the wait for a key, fetching, and the cases of a step. -/

namespace Sys2Proof.Machine

variable {s t : State}

/-! ## Faults -/

/-- A fault with the latch empty: the latch is set and nothing else changes (60_exceptions.md R201). -/
theorem raise_ok (kind : FaultKind) (info : Nat) (h : s.fault = none) :
    raise kind info s = .next { s with fault := some ⟨kind, s.pc, info⟩ } := by
  rw [raise, State.latch_empty s _ h]

/-- A fault with the latch full changes nothing (60_exceptions.md R202). -/
theorem raise_latched (kind : FaultKind) (info : Nat) (h : s.fault ≠ none) :
    raise kind info s = .next s := by
  rw [raise, State.latch_full s _ h]

/-- A memory instruction whose range is inside the memory. -/
theorem guardRange_inside {a n : Nat} (h : n = 0 ∨ a + n ≤ 4096) :
    guardRange a n s t = .next t := by
  rw [guardRange, if_pos ((accessOk_iff a n).2 h)]

/-- A memory instruction whose range is not inside the memory (60_exceptions.md R205). -/
theorem guardRange_outside {a n : Nat} (hn : n ≠ 0) (h : 4096 < a + n) :
    guardRange a n s t = raise .memOutOfBounds (max a 4096) s := by
  have : ¬ accessOk a n = true := by rw [accessOk_iff]; omega
  rw [guardRange, if_neg this]; rfl

/-- The two outcomes of a memory instruction. -/
theorem guardRange_cases {a n : Nat} {u : State} (h : guardRange a n s t = .next u) :
    ((n = 0 ∨ a + n ≤ 4096) ∧ u = t) ∨
      (n ≠ 0 ∧ 4096 < a + n ∧ u = s.latch ⟨.memOutOfBounds, s.pc, max a 4096⟩) := by
  by_cases hr : n = 0 ∨ a + n ≤ 4096
  · rw [guardRange_inside hr] at h
    exact .inl ⟨hr, (Host.Outcome.next.inj h).symm⟩
  · rw [guardRange_outside (by omega) (by omega)] at h
    exact .inr ⟨by omega, by omega, (Host.Outcome.next.inj h).symm⟩

/-! ## Skips -/

/-- A skip after the advance, as one change of `pc`: 4 where it is taken and 2 where it is not
(40_control_flow.md section 4). -/
theorem advance_skipIf (c : Bool) :
    s.advance.skipIf c = { s with pc := if c then s.pc + 4#16 else s.pc + 2#16 } := by
  cases c
  · rfl
  · have h : s.pc + 2#16 + 2#16 = s.pc + 4#16 := by rw [BitVec.add_assoc]; rfl
    simp only [State.skipIf, State.advance, State.setPc, State.pcn, if_true, h]

/-! ## The call stack -/

/-- A push with room (40_control_flow.md R104). -/
theorem push_room (a : Word) (h : s.sp.val < 16) :
    s.push a = some { s with
      stack := s.stack.set s.sp.val a h
      sp := ⟨s.sp.val + 1, by omega⟩ } := by
  rw [State.push, dif_pos h]

/-- A push on a full stack. -/
theorem push_full (a : Word) (h : s.sp.val = 16) : s.push a = none := by
  rw [State.push, dif_neg (by omega)]

/-- A pop of a stack that is not empty (40_control_flow.md R102). -/
theorem pop_some (h : s.sp.val ≠ 0) :
    s.pop = some (s.stack[s.sp.val - 1]'(by omega), { s with sp := ⟨s.sp.val - 1, by omega⟩ }) := by
  rw [State.pop, dif_neg h]

/-- A pop of an empty stack. -/
theorem pop_empty (h : s.sp.val = 0) : s.pop = none := by
  rw [State.pop, dif_pos h]

/-! ## Keys -/

/-- A register value that is a key number (44_keys_timers.md R160). -/
theorem keyOperand_small {b : Byte} (h : b.toNat < 16) : keyOperand b = some ⟨b.toNat, h⟩ := by
  rw [keyOperand, dif_pos h]

/-- A register value that is no key number. -/
theorem keyOperand_large {b : Byte} (h : 15 < b.toNat) : keyOperand b = none := by
  rw [keyOperand, dif_neg (by omega)]

/-- No lowest key: no key is down (44_keys_timers.md R163). -/
theorem lowestKey_none : s.lowestKey = none ↔ ∀ k, s.key k = false := by
  simp [State.lowestKey, List.find?_eq_none]

/-- The lowest key is down and every lower one is up (44_keys_timers.md R163). -/
theorem lowestKey_some {k : KeyIdx} :
    s.lowestKey = some k ↔ s.key k = true ∧ ∀ j < k, s.key j = false := by
  rw [State.lowestKey, List.find?_eq_some_iff_getElem]
  constructor
  · rintro ⟨hk, n, hn, hnk, hlt⟩
    refine ⟨hk, fun j hj => ?_⟩
    rw [List.getElem_finRange] at hnk
    have hjn : j.val < n := by rw [← hnk] at hj; exact hj
    have := hlt j.val hjn
    rw [List.getElem_finRange] at this
    simpa using this
  · rintro ⟨hk, hlt⟩
    refine ⟨hk, k.val, by simp, by simp, fun j hj => ?_⟩
    have := hlt ⟨j, by omega⟩ hj
    simpa using this

/-! ## Operands -/

/-- A dump of V0 to Vx has x + 1 bytes (42_index_memory.md R144). -/
@[simp] theorem length_regsUpTo (x : RegIdx) : (s.regsUpTo x).length = x.val + 1 := by
  simp only [State.regsUpTo, List.length_take, Vector.length_toList]; omega

/-- Byte j of a dump is `V[j]` (42_index_memory.md R144). -/
theorem getElem_regsUpTo (x : RegIdx) (j : Nat) (h : j < (s.regsUpTo x).length) :
    (s.regsUpTo x)[j] = s.reg ⟨j, by rw [length_regsUpTo] at h; omega⟩ := by
  simp [State.regsUpTo, State.reg]

/-- Three digits (42_index_memory.md R143). -/
@[simp] theorem length_decimalDigits (b : Byte) : (decimalDigits b).length = 3 := rfl

/-! ## The memory of a state -/

/-- A store leaves every byte outside its range alone (20_memory.md R54, R57). -/
theorem read_storeBytes_outside {a c : Nat} {bs : List Byte} (h : c < a ∨ a + bs.length ≤ c) :
    (s.storeBytes a bs).read c = s.read c := Memory.read_storeBytes_outside _ a c bs h

/-- Each stored byte reads back (20_memory.md R57, R62). -/
theorem read_storeBytes_inside {a k : Nat} {bs : List Byte} (hm : s.memWf = true)
    (h : a + bs.length ≤ 4096) (hk : k < bs.length) : (s.storeBytes a bs).read (a + k) = bs[k] :=
  Memory.read_storeBytes_inside a bs hm h k hk

/-- A store inside the address space keeps the canonical form. -/
theorem memWf_storeBytes {a : Nat} {bs : List Byte} (hm : s.memWf = true)
    (h : a + bs.length ≤ 4096) : (s.storeBytes a bs).memWf = true := Memory.wf_storeBytes a bs hm h

/-- What a byte reads as in a memory with nothing listed (20_memory.md R51). -/
theorem read_nil (h : s.mem = []) (a : Nat) : s.read a = Memory.unlisted s.font a := by
  rw [State.read, h]; rfl

/-- A load of n bytes gives n bytes. -/
@[simp] theorem length_loadBytes (a n : Nat) : (s.loadBytes a n).length = n :=
  Memory.length_loadBytes _ a n

/-- Byte k of a load is the byte at `a + k` (20_memory.md R57). -/
@[simp] theorem getElem_loadBytes (a n k : Nat) (h : k < (s.loadBytes a n).length) :
    (s.loadBytes a n)[k] = s.read (a + k) := Memory.getElem_loadBytes _ a n k h

/-! ## Fetch and step -/

/-- The fetch reads the bytes at `pc` and `pc + 1` (20_memory.md R56, R58). -/
theorem fetchBytes_eq : s.fetchBytes = [s.read s.pc.toNat, s.read (s.pc.toNat + 1)] := rfl

/-- A fetch is in range up to `pc` = 4094 (20_memory.md R65). -/
theorem fetchOk_iff : s.fetchOk = true ↔ s.pc.toNat ≤ 4094 := by
  rw [State.fetchOk, accessOk_iff]; omega

/-- A word that has been placed is fetched. -/
theorem fetchBytes_placeWord (w : Word) (hm : s.memWf = true) (h : s.pc.toNat ≤ 4094) :
    (s.placeWord w).fetchBytes = bytesOfWord w :=
  Memory.loadBytes_storeBytes s.pc.toNat (bytesOfWord w) hm (by simp [bytesOfWord, memSize]; omega)

/-- Every decode of two bytes is an instruction or a decode miss: a step that answers a next state did
one of four things (40_control_flow.md R100). -/
theorem step_cases (h : step s = .next t) :
    (s.fault ≠ none ∧ t = s) ∨
    (s.fault = none ∧ 4094 < s.pc.toNat ∧
      t = { s with fault := some ⟨.memOutOfBounds, s.pc, max s.pc.toNat 4096⟩ }) ∨
    (s.fault = none ∧ s.pc.toNat ≤ 4094 ∧ ∃ i, decode s.fetchBytes = .ok (i, []) ∧
      exec i s = .next t) ∨
    (s.fault = none ∧ s.pc.toNat ≤ 4094 ∧ (∃ e, decode s.fetchBytes = .error e) ∧
      t = s.advance) := by
  unfold step at h
  split at h
  · rename_i f hf
    exact .inl ⟨by simp [hf], (Host.Outcome.next.inj h).symm⟩
  · rename_i hf
    by_cases hp : s.pc.toNat ≤ 4094
    · rw [if_pos (fetchOk_iff.2 hp)] at h
      split at h
      · rename_i i rest hd
        refine .inr (.inr (.inl ⟨hf, hp, i, ?_, h⟩))
        rw [fetchBytes_eq, decode] at hd ⊢
        cases hw : decodeWord (wordOfBytes (s.read s.pc.toNat) (s.read (s.pc.toNat + 1)))
        <;> rw [hw] at hd <;> simp_all [Except.map]
      · rename_i e hd
        exact .inr (.inr (.inr ⟨hf, hp, ⟨e, hd⟩, (Host.Outcome.next.inj h).symm⟩))
    · rw [if_neg (by rw [fetchOk_iff]; exact hp), fetchFault, raise_ok _ _ hf] at h
      exact .inr (.inl ⟨hf, by omega, (Host.Outcome.next.inj h).symm⟩)

end Sys2Proof.Machine
end

