-- ==== Sys2Proof/Laws/PerInstr.lean ====
section
/-! SUPPORT. Statements about every instruction, one lemma per constructor: the assembler reads back
the assembly line of each instruction (30_encoding.md R77), so every `Instr` is well-formed. -/

namespace Sys2Proof

/-- A register number is accepted as an operand. -/
@[simp] theorem regOperand_val (x : RegIdx) : regOperand x.val = some x := by
  simp [regOperand]

/-- An 8-bit literal is accepted as an operand. -/
@[simp] theorem literal8_toNat (b : Byte) : literal8 b.toNat = some b := by
  simp [literal8, b.isLt]

/-- A 12-bit literal is accepted as an operand. -/
@[simp] theorem literal12_toNat (a : BitVec 12) : literal12 a.toNat = some a := by
  simp [literal12, a.isLt]

/-- A 4-bit literal is accepted as an operand. -/
@[simp] theorem literal4_toNat (n : BitVec 4) : literal4 n.toNat = some n := by
  simp [literal4, n.isLt]

end Sys2Proof

namespace Sys2Proof.Laws.AsmRoundTrip

/-- The assembly line of an instruction assembles to it. -/
def Statement (i : Instr) : Prop := assemble (disassemble i) = some i

theorem cls : Statement (.cls) := by
  simp [Statement, assemble, disassemble]

theorem ret : Statement (.ret) := by
  simp [Statement, assemble, disassemble]

theorem jp (nnn : BitVec 12) : Statement (.jp nnn) := by
  simp [Statement, assemble, disassemble]

theorem call (nnn : BitVec 12) : Statement (.call nnn) := by
  simp [Statement, assemble, disassemble]

theorem seImm (x : RegIdx) (nn : Byte) : Statement (.seImm x nn) := by
  simp [Statement, assemble, disassemble]

theorem sneImm (x : RegIdx) (nn : Byte) : Statement (.sneImm x nn) := by
  simp [Statement, assemble, disassemble]

theorem seReg (x y : RegIdx) : Statement (.seReg x y) := by
  simp [Statement, assemble, disassemble]

theorem ldImm (x : RegIdx) (nn : Byte) : Statement (.ldImm x nn) := by
  simp [Statement, assemble, disassemble]

theorem addImm (x : RegIdx) (nn : Byte) : Statement (.addImm x nn) := by
  simp [Statement, assemble, disassemble]

theorem ldReg (x y : RegIdx) : Statement (.ldReg x y) := by
  simp [Statement, assemble, disassemble]

theorem orReg (x y : RegIdx) : Statement (.orReg x y) := by
  simp [Statement, assemble, disassemble]

theorem andReg (x y : RegIdx) : Statement (.andReg x y) := by
  simp [Statement, assemble, disassemble]

theorem xorReg (x y : RegIdx) : Statement (.xorReg x y) := by
  simp [Statement, assemble, disassemble]

theorem addReg (x y : RegIdx) : Statement (.addReg x y) := by
  simp [Statement, assemble, disassemble]

theorem subReg (x y : RegIdx) : Statement (.subReg x y) := by
  simp [Statement, assemble, disassemble]

theorem shr (x y : RegIdx) : Statement (.shr x y) := by
  simp [Statement, assemble, disassemble]

theorem subnReg (x y : RegIdx) : Statement (.subnReg x y) := by
  simp [Statement, assemble, disassemble]

theorem shl (x y : RegIdx) : Statement (.shl x y) := by
  simp [Statement, assemble, disassemble]

theorem sneReg (x y : RegIdx) : Statement (.sneReg x y) := by
  simp [Statement, assemble, disassemble]

theorem ldI (nnn : BitVec 12) : Statement (.ldI nnn) := by
  simp [Statement, assemble, disassemble]

theorem jpV0 (nnn : BitVec 12) : Statement (.jpV0 nnn) := by
  simp [Statement, assemble, disassemble]

theorem rnd (x : RegIdx) (nn : Byte) : Statement (.rnd x nn) := by
  simp [Statement, assemble, disassemble]

theorem drw (x y : RegIdx) (n : BitVec 4) : Statement (.drw x y n) := by
  simp [Statement, assemble, disassemble]

theorem skp (x : RegIdx) : Statement (.skp x) := by
  simp [Statement, assemble, disassemble]

theorem sknp (x : RegIdx) : Statement (.sknp x) := by
  simp [Statement, assemble, disassemble]

theorem ldVxDT (x : RegIdx) : Statement (.ldVxDT x) := by
  simp [Statement, assemble, disassemble]

theorem ldVxK (x : RegIdx) : Statement (.ldVxK x) := by
  simp [Statement, assemble, disassemble]

theorem ldDTVx (x : RegIdx) : Statement (.ldDTVx x) := by
  simp [Statement, assemble, disassemble]

theorem ldSTVx (x : RegIdx) : Statement (.ldSTVx x) := by
  simp [Statement, assemble, disassemble]

theorem addI (x : RegIdx) : Statement (.addI x) := by
  simp [Statement, assemble, disassemble]

theorem ldF (x : RegIdx) : Statement (.ldF x) := by
  simp [Statement, assemble, disassemble]

theorem ldB (x : RegIdx) : Statement (.ldB x) := by
  simp [Statement, assemble, disassemble]

theorem ldMemVx (x : RegIdx) : Statement (.ldMemVx x) := by
  simp [Statement, assemble, disassemble]

theorem ldVxMem (x : RegIdx) : Statement (.ldVxMem x) := by
  simp [Statement, assemble, disassemble]

end Sys2Proof.Laws.AsmRoundTrip
end

