-- ==== Sys2Proof/Laws/Screen.lean ====
section
/-! SUPPORT. The display: toggling, drawing a list of cells, and the cells of a sprite. -/

namespace Sys2Proof.Machine

namespace Display

/-- Toggling a cell changes that cell alone (43_display.md R150). -/
@[simp] theorem get_toggle (d : Display) (p q : PixelIdx) :
    (d.toggle p).get q = if p = q then !(d.get p) else d.get q := by
  obtain ⟨r, c⟩ := p
  obtain ⟨r', c'⟩ := q
  simp only [toggle, get, Prod.mk.injEq, Fin.getElem_fin, Vector.getElem_set, Fin.ext_iff]
  by_cases hr : r.val = r'.val
  · obtain rfl := Fin.ext hr
    by_cases hc : c.val = c'.val <;> simp [hc]
  · simp [hr]

/-- Every cell of a cleared display is 0 (43_display.md R151). -/
@[simp] theorem get_clear (p : PixelIdx) : clear.get p = false := by
  simp [clear, get]

/-- Two displays with the same cells are the same. -/
theorem ext_get {d e : Display} (h : ∀ p, d.get p = e.get p) : d = e := by
  apply Vector.ext
  intro r hr
  apply Vector.ext
  intro c hc
  exact h (⟨r, hr⟩, ⟨c, hc⟩)

/-- Plotting from any start: each cell is toggled once for each time it is in the list. -/
theorem get_foldl_plot (ps : List PixelIdx) (d : Display) (f : Bool) (q : PixelIdx) :
    (ps.foldl plot (d, f)).1.get q = (d.get q ^^ decide (ps.count q % 2 = 1)) := by
  induction ps generalizing d f with
  | nil => simp
  | cons p ps ih =>
    rw [List.foldl_cons, plot, ih, get_toggle, List.count_cons]
    by_cases h : p = q
    · subst h
      have : (decide ((List.count p ps + 1) % 2 = 1)) = !(decide (List.count p ps % 2 = 1)) := by
        by_cases hc : List.count p ps % 2 = 1
        · have : ¬ (List.count p ps + 1) % 2 = 1 := by omega
          simp [hc, this]
        · have : (List.count p ps + 1) % 2 = 1 := by omega
          simp [hc, this]
      simp [this]
    · simp [h]

/-- Drawing toggles each cell once for each time it is in the list (43_display.md R152). -/
theorem get_draw (ps : List PixelIdx) (d : Display) (q : PixelIdx) :
    (d.draw ps).1.get q = (d.get q ^^ decide (ps.count q % 2 = 1)) := get_foldl_plot ps d false q

/-- Drawing distinct cells: each is toggled and the rest stay. -/
theorem get_draw_nodup {ps : List PixelIdx} (h : ps.Nodup) (d : Display) (q : PixelIdx) :
    (d.draw ps).1.get q = (d.get q ^^ decide (q ∈ ps)) := by
  rw [get_draw]
  congr 1
  by_cases hq : q ∈ ps
  · simp [hq, List.count_eq_one_of_mem h hq]
  · simp [hq, List.count_eq_zero_of_not_mem hq]

/-- Drawing the same cells twice restores the display: XOR is its own inverse (43_display.md R152). -/
theorem draw_draw (ps : List PixelIdx) (d : Display) : ((d.draw ps).1.draw ps).1 = d := by
  apply ext_get
  intro q
  simp [get_draw]

/-- Plotting distinct cells: the flag is set iff one of them was set before (43_display.md R152). -/
theorem foldl_plot_snd {ps : List PixelIdx} (h : ps.Nodup) (d : Display) (f : Bool) :
    (ps.foldl plot (d, f)).2 = (f || ps.any d.get) := by
  induction ps generalizing d f with
  | nil => simp
  | cons p ps ih =>
    have hrest : ps.any (d.toggle p).get = ps.any d.get := by
      rw [Bool.eq_iff_iff, List.any_eq_true, List.any_eq_true]
      refine exists_congr fun q => and_congr_right fun hq => ?_
      have hpq : p ≠ q := fun e => by subst e; exact (List.nodup_cons.1 h).1 hq
      simp [hpq]
    rw [List.foldl_cons, plot, ih h.of_cons, List.any_cons, hrest, Bool.or_assoc]

/-- Drawing distinct cells: the collision flag (43_display.md R152). -/
theorem draw_snd {ps : List PixelIdx} (h : ps.Nodup) (d : Display) :
    (d.draw ps).2 = ps.any d.get := by
  rw [draw, foldl_plot_snd h, Bool.false_or]

end Display

/-! ## The cells of a sprite -/

/-- A cell of a sprite row: it is the cell of a column offset 0 to 7 whose bit is 1. -/
theorem mem_spriteRowCells {cx cy : Byte} {r : Nat} {b : Byte} {q : PixelIdx} :
    q ∈ spriteRowCells cx cy r b ↔ ∃ c < 8, b.getLsbD (7 - c) = true ∧ spriteCell cx cy r c = q := by
  simp [spriteRowCells, and_assoc]

/-- A cell of a sprite: the cell of a row and column offset whose bit is 1 (43_display.md R152). -/
theorem mem_spriteCells {cx cy : Byte} {bs : List Byte} {r0 : Nat} {q : PixelIdx} :
    q ∈ spriteCells cx cy r0 bs ↔
      ∃ r c, ∃ h : r < bs.length, c < 8 ∧ bs[r].getLsbD (7 - c) = true ∧
        spriteCell cx cy (r0 + r) c = q := by
  induction bs generalizing r0 with
  | nil => simp [spriteCells]
  | cons b bs ih =>
    rw [spriteCells, List.mem_append, mem_spriteRowCells, ih]
    constructor
    · rintro (⟨c, hc, hb, hq⟩ | ⟨r, c, h, hc, hb, hq⟩)
      · exact ⟨0, c, by simp, hc, by simpa using hb, by simpa using hq⟩
      · refine ⟨r + 1, c, by simpa using h, hc, by simpa using hb, ?_⟩
        rw [← hq]; congr 1; omega
    · rintro ⟨r, c, h, hc, hb, hq⟩
      cases r with
      | zero => exact .inl ⟨c, hc, by simpa using hb, by simpa using hq⟩
      | succ r =>
        refine .inr ⟨r, c, by simpa using h, hc, by simpa using hb, ?_⟩
        rw [← hq]; congr 1; omega

/-- Offsets below 32 rows and 64 columns name their cell: no two sprite pixels share one
(43_display.md R152). -/
theorem spriteCell_inj {cx cy : Byte} {r r' c c' b : Nat} (hb : b ≤ r) (hb' : b ≤ r')
    (hr : r < b + 32) (hr' : r' < b + 32) (hc : c < 64) (hc' : c' < 64)
    (h : spriteCell cx cy r c = spriteCell cx cy r' c') : r = r' ∧ c = c' := by
  simp only [spriteCell, Prod.mk.injEq, Fin.mk.injEq] at h
  omega

/-- The cells of one sprite row are distinct. -/
theorem nodup_spriteRowCells (cx cy : Byte) (r : Nat) (b : Byte) :
    (spriteRowCells cx cy r b).Nodup := by
  refine List.Nodup.map_on ?_ ((List.nodup_range).filter _)
  intro c hc c' hc' h
  simp only [List.mem_filter, List.mem_range] at hc hc'
  exact (spriteCell_inj (le_refl r) (le_refl r) (by omega) (by omega) (by omega) (by omega) h).2

/-- The cells of a sprite of at most 32 rows are distinct (43_display.md R152). -/
theorem nodup_spriteCells (cx cy : Byte) (r : Nat) (bs : List Byte) (h : bs.length ≤ 32) :
    (spriteCells cx cy r bs).Nodup := by
  induction bs generalizing r with
  | nil => simp [spriteCells]
  | cons b bs ih =>
    simp only [List.length_cons] at h
    rw [spriteCells]
    refine List.Nodup.append (nodup_spriteRowCells cx cy r b) (ih (r + 1) (by omega)) ?_
    intro q h1 h2
    obtain ⟨c, hc, -, h1⟩ := mem_spriteRowCells.1 h1
    obtain ⟨k, c', hk, hc', -, h2⟩ := mem_spriteCells.1 h2
    have := (spriteCell_inj (b := r) (by omega) (by omega) (by omega) (by omega) (by omega)
      (by omega) (h1.trans h2.symm)).1
    omega

/-- The cells that DRW plots are distinct: at most 15 rows (43_display.md R152). -/
theorem nodup_drwCells (s : State) (x y : RegIdx) (n : BitVec 4) : (s.drwCells x y n).Nodup :=
  nodup_spriteCells _ _ _ _ (by rw [length_loadBytes]; omega)

end Sys2Proof.Machine
end

