-- ==== Sys2Proof/Tests/Slice0.lean ====
section
/-! SUPPORT. Tests: ill-formed terms that are refused, words decoded, one STEP or command on a small
state, and a witness for the hypotheses of each statement. Expected results are the vectors of
spec/95_test_vectors.md (named T or S in the comments) and the examples of the rules. -/

namespace Sys2Proof.Tests

open Sys2Proof.Machine Sys2Proof.Statement

/-! ## Ill-formed terms (30_encoding.md R71, R77) -/

/-- There is no register V16. -/
theorem test_reg_range : (Asm.mk .LD [.v 16, .num 5]).wellFormed = false := by decide
/-- `nn` has 8 bits. -/
theorem test_nn_range : (Asm.mk .ADD [.v 1, .num 256]).wellFormed = false := by decide
/-- `nnn` has 12 bits. -/
theorem test_nnn_range : (Asm.mk .JP [.num 4096]).wellFormed = false := by decide
/-- `n` has 4 bits. -/
theorem test_n_range : (Asm.mk .DRW [.v 0, .v 1, .num 16]).wellFormed = false := by decide
/-- Only V0 can be the register of JP V0. -/
theorem test_jp_only_v0 : (Asm.mk .JP [.v 1, .num 0x300]).wellFormed = false := by decide
/-- A mnemonic with operands it does not take. -/
theorem test_operand_shape : (Asm.mk .CLS [.v 0]).wellFormed = false := by decide
/-- `SHR Vx` is assembled with y = 0, and `SHR Vx, Vy` sets the field (R77). -/
theorem test_shr_spellings : assemble ⟨.SHR, [.v 3]⟩ = some (.shr 3 0) ∧
    assemble ⟨.SHR, [.v 3, .v 7]⟩ = some (.shr 3 7) := by decide
/-- `SHL Vx` is assembled with y = 0 (R77); that `SHL Vx, Vy` is accepted is the model's choice (log 7). -/
theorem test_shl_spellings : assemble ⟨.SHL, [.v 3]⟩ = some (.shl 3 0) ∧
    assemble ⟨.SHL, [.v 3, .v 7]⟩ = some (.shl 3 7) := by decide

/-! ## Words written out from 30_encoding.md R74 -/

theorem test_decode_control :
    decodeWord 0b0000000011101110#16 = .ok .ret ∧
    decodeWord 0b0001001000000100#16 = .ok (.jp 0x204#12) ∧
    decodeWord 0b0010001000001010#16 = .ok (.call 0x20A#12) ∧
    decodeWord 0b0011000100100011#16 = .ok (.seImm 1 0x23#8) ∧
    decodeWord 0b0100111100000001#16 = .ok (.sneImm 15 0x01#8) ∧
    decodeWord 0b0101001000110000#16 = .ok (.seReg 2 3) ∧
    decodeWord 0b1001001000110000#16 = .ok (.sneReg 2 3) ∧
    decodeWord 0b1011001100000000#16 = .ok (.jpV0 0x300#12) := by decide

theorem test_decode_load_logic :
    decodeWord 0b0110000000000101#16 = .ok (.ldImm 0 0x05#8) ∧
    decodeWord 0b0111010100000010#16 = .ok (.addImm 5 0x02#8) ∧
    decodeWord 0b1000000100100000#16 = .ok (.ldReg 1 2) ∧
    decodeWord 0b1000000100100001#16 = .ok (.orReg 1 2) ∧
    decodeWord 0b1000000100100010#16 = .ok (.andReg 1 2) ∧
    decodeWord 0b1000000100100011#16 = .ok (.xorReg 1 2) := by decide

theorem test_decode_arithmetic :
    decodeWord 0b1000000100100100#16 = .ok (.addReg 1 2) ∧
    decodeWord 0b1000000100100101#16 = .ok (.subReg 1 2) ∧
    decodeWord 0b1000000100100110#16 = .ok (.shr 1 2) ∧
    decodeWord 0b1000000100100111#16 = .ok (.subnReg 1 2) ∧
    decodeWord 0b1000000100101110#16 = .ok (.shl 1 2) ∧
    decodeWord 0b1100001000001111#16 = .ok (.rnd 2 0x0F#8) := by decide

theorem test_decode_index_display :
    decodeWord 0b1010001100000000#16 = .ok (.ldI 0x300#12) ∧
    decodeWord 0b1111001000011110#16 = .ok (.addI 2) ∧
    decodeWord 0b1111001000101001#16 = .ok (.ldF 2) ∧
    decodeWord 0b1111001000110011#16 = .ok (.ldB 2) ∧
    decodeWord 0b1111001001010101#16 = .ok (.ldMemVx 2) ∧
    decodeWord 0b1111001001100101#16 = .ok (.ldVxMem 2) ∧
    decodeWord 0b0000000011100000#16 = .ok .cls ∧
    decodeWord 0b1101000000010010#16 = .ok (.drw 0 1 2#4) := by decide

theorem test_decode_keys_timers :
    decodeWord 0b1110000010011110#16 = .ok (.skp 0) ∧
    decodeWord 0b1110000010100001#16 = .ok (.sknp 0) ∧
    decodeWord 0b1111001100001010#16 = .ok (.ldVxK 3) ∧
    decodeWord 0b1111001000000111#16 = .ok (.ldVxDT 2) ∧
    decodeWord 0b1111000100010101#16 = .ok (.ldDTVx 1) ∧
    decodeWord 0b1111000100011000#16 = .ok (.ldSTVx 1) := by decide

/-- T2 to T7: decode misses next to instructions. -/
theorem test_decode_misses :
    decodeWord 0x00E1#16 = .error (.decodeMiss 0x00E1#16) ∧ decodeWord 0x0123#16 = .error (.decodeMiss 0x0123#16) ∧
    decodeWord 0x5121#16 = .error (.decodeMiss 0x5121#16) ∧ decodeWord 0x8AB8#16 = .error (.decodeMiss 0x8AB8#16) ∧
    decodeWord 0xE19F#16 = .error (.decodeMiss 0xE19F#16) ∧ decodeWord 0xF1FF#16 = .error (.decodeMiss 0xF1FF#16) ∧
    decode [0x60#8] = .error .truncated := by decide

/-! ## Small states -/

/-- Registers set one after another. -/
def withRegs (s : State) (l : List (RegIdx × Byte)) : State := l.foldl (fun s p => s.setReg p.1 p.2) s

/-- The start state of spec/95_test_vectors.md with a word at 0x200 and some registers set. -/
def start (w : Word) (l : List (RegIdx × Byte)) : State := withRegs (State.reset.placeWord w) l

/-- The same with `I` set. -/
def startI (w : Word) (l : List (RegIdx × Byte)) (i : Word) : State := (start w l).setI i

/-- Cells of memory written. -/
def withMem (s : State) (a : Nat) (bs : List Byte) : State := s.storeBytes a bs

/-- What a reading gives after one STEP. -/
def after {α : Type} (s : State) (f : State → α) : Option α :=
  match step s with
  | .next t => some (f t)
  | .fault _ => none
  | .refused _ => none

/-- What a reading gives after one command. -/
def afterCommand {α : Type} (c : Command) (s : State) (f : State → α) : Option α :=
  match command c s with
  | .next t => some (f t)
  | .fault _ => none
  | .refused _ => none

/-! ## Control transfer -/

/-- T1, T23's first step: a decode miss advances `pc`. -/
theorem test_decode_miss : after (start 0x0000#16 []) State.pc = some 0x202#16 := by decide
/-- T12, T24: the fetch at 0xFFF needs byte 4096. -/
theorem test_fetch_fault : after (State.reset.setPc 0xFFF#16) (fun t => (t.pc, t.fault)) =
    some (0xFFF#16, some ⟨.memOutOfBounds, 0xFFF#16, 4096⟩) := by decide
/-- T25: nothing runs with a fault latched. -/
theorem test_latched : after ((start 0x6005#16 []).latch ⟨.stackUnderflow, 0x300#16, 0⟩)
    (fun t => (t.reg 0, t.pc, t.fault)) =
    some (0#8, 0x200#16, some ⟨.stackUnderflow, 0x300#16, 0⟩) := by decide
/-- T8: RET leaves the popped entry. -/
theorem test_ret : after { start 0x00EE#16 [] with
      sp := 2, stack := (State.reset.stack.set 0 0x222#16).set 1 0x456#16 }
    (fun t => (t.sp, t.pc, t.stack[1])) = some (1, 0x456#16, 0x456#16) := by decide
/-- T9: RET on an empty stack. -/
theorem test_ret_underflow : after (start 0x00EE#16 []) (fun t => (t.pc, t.fault)) =
    some (0x200#16, some ⟨.stackUnderflow, 0x200#16, 0⟩) := by decide
/-- T10: an odd target is accepted. -/
theorem test_jp : after (start 0x1201#16 []) State.pc = some 0x201#16 := by decide
/-- T13: the sixteenth nested call. -/
theorem test_call : after { start 0x2ABC#16 [] with sp := 15 }
    (fun t => (t.stack[15], t.sp, t.pc)) = some (0x202#16, 16, 0xABC#16) := by decide
/-- T14: the seventeenth faults. -/
theorem test_call_overflow : after { start 0x2ABC#16 [] with sp := 16 }
    (fun t => (t.sp, t.pc, t.fault)) =
    some (16, 0x200#16, some ⟨.stackOverflow, 0x200#16, 0⟩) := by decide
/-- S6, T19: SE Vx,nn. -/
theorem test_seImm : after (start 0x3F01#16 [(15, 1)]) State.pc = some 0x204#16 ∧
    after (start 0x3342#16 [(3, 0x43)]) State.pc = some 0x202#16 := by decide
/-- S6: SNE Vx,nn. -/
theorem test_sneImm : after (start 0x4342#16 [(3, 0x42)]) State.pc = some 0x202#16 ∧
    after (start 0x4342#16 [(3, 0x43)]) State.pc = some 0x204#16 := by decide
/-- T15, T17: SE Vx,Vy. -/
theorem test_seReg : after (start 0x5440#16 [(4, 9)]) State.pc = some 0x204#16 ∧
    after (start 0x5230#16 [(2, 7), (3, 8)]) State.pc = some 0x202#16 := by decide
/-- T16, T18: SNE Vx,Vy. -/
theorem test_sneReg : after (start 0x9440#16 [(4, 9)]) State.pc = some 0x202#16 ∧
    after (start 0x9230#16 [(2, 7), (3, 8)]) State.pc = some 0x204#16 := by decide
/-- T21: the target is not reduced modulo 4096. -/
theorem test_jpV0 : after (start 0xBFFF#16 [(0, 0xFF)]) State.pc = some 0x10FE#16 := by decide

/-! ## Load, arithmetic, logic -/

/-- S10, T40. -/
theorem test_ldImm : after (start 0x6005#16 []) (fun t => (t.reg 0, t.pc)) = some (5#8, 0x202#16) ∧
    after (start 0x6FAB#16 []) (fun t => t.reg 15) = some 0xAB#8 := by decide
/-- T41: no flag. -/
theorem test_addImm : after (start 0x7502#16 [(5, 0xFF), (15, 0x77)])
    (fun t => (t.reg 5, t.reg 15)) = some (0x01#8, 0x77#8) := by decide
/-- T43. -/
theorem test_ldReg : after (start 0x8120#16 [(2, 0x3C)]) (fun t => (t.reg 1, t.reg 2)) =
    some (0x3C#8, 0x3C#8) := by decide
/-- T44: VF is untouched. -/
theorem test_orReg : after (start 0x8011#16 [(0, 0x0F), (1, 0xF0), (15, 0x5A)])
    (fun t => (t.reg 0, t.reg 15)) = some (0xFF#8, 0x5A#8) := by decide
/-- T45. -/
theorem test_andReg : after (start 0x8012#16 [(0, 0x3C), (1, 0x0F), (15, 1)])
    (fun t => (t.reg 0, t.reg 15)) = some (0x0C#8, 1#8) := by decide
/-- T46. -/
theorem test_xorReg : after (start 0x8013#16 [(0, 0xFF), (1, 0x0F), (15, 1)])
    (fun t => (t.reg 0, t.reg 15)) = some (0xF0#8, 1#8) := by decide
/-- T48, T50. -/
theorem test_addReg :
    after (start 0x8014#16 [(0, 0xFF), (1, 0x01)]) (fun t => (t.reg 0, t.reg 15)) = some (0#8, 1#8) ∧
    after (start 0x8014#16 [(0, 0x7F), (1, 0x80)]) (fun t => (t.reg 0, t.reg 15)) =
      some (0xFF#8, 0#8) := by decide
/-- T53, T54: VF as destination and as addend. -/
theorem test_addReg_vf :
    after (start 0x8F14#16 [(15, 3), (1, 4)]) (fun t => t.reg 15) = some 0#8 ∧
    after (start 0x80F4#16 [(0, 1), (15, 0xFF)]) (fun t => (t.reg 0, t.reg 15)) =
      some (0#8, 1#8) := by decide
/-- T55, T57. -/
theorem test_subReg :
    after (start 0x8015#16 [(0, 5), (1, 5)]) (fun t => (t.reg 0, t.reg 15)) = some (0#8, 1#8) ∧
    after (start 0x8015#16 [(0, 5), (1, 7)]) (fun t => (t.reg 0, t.reg 15)) =
      some (0xFE#8, 0#8) := by decide
/-- T60, T61. -/
theorem test_subnReg :
    after (start 0x8017#16 [(0, 5), (1, 7)]) (fun t => (t.reg 0, t.reg 15)) = some (2#8, 1#8) ∧
    after (start 0x8017#16 [(0, 1), (1, 0)]) (fun t => (t.reg 0, t.reg 15)) =
      some (0xFF#8, 0#8) := by decide
/-- T64, T66: `y` is ignored; VF as the register shifted. -/
theorem test_shr :
    after (start 0x8126#16 [(1, 4), (2, 0xFF)]) (fun t => (t.reg 1, t.reg 2, t.reg 15)) =
      some (2#8, 0xFF#8, 0#8) ∧
    after (start 0x8F06#16 [(15, 3)]) (fun t => t.reg 15) = some 1#8 := by decide
/-- T67, T68. -/
theorem test_shl :
    after (start 0x800E#16 [(0, 0xFF)]) (fun t => (t.reg 0, t.reg 15)) = some (0xFE#8, 1#8) ∧
    after (start 0x8F0E#16 [(15, 0x40)]) (fun t => t.reg 15) = some 0#8 := by decide
/-- T71, T72: the operand of STEP(rnd). -/
theorem test_rnd :
    afterCommand (.step 0x5A#8) (start 0xC1FF#16 []) (fun t => t.reg 1) = some 0x5A#8 ∧
    afterCommand (.step 0xA7#8) (start 0xC1F0#16 []) (fun t => (t.reg 1, t.rndIn)) =
      some (0xA0#8, none) := by decide
/-- RND with a free byte runs too; nothing is said of the value but the mask. -/
theorem test_rnd_free : after (start 0xC100#16 [(1, 0x33)]) (fun t => (t.pc, t.rndDraws)) =
    some (0x202#16, 1) := by decide

/-! ## Index register and memory -/

/-- T80. -/
theorem test_ldI : after (start 0xAFFF#16 []) (fun t => (t.i, t.pc)) =
    some (0x0FFF#16, 0x202#16) := by decide
/-- T81, T83. -/
theorem test_addI :
    after (startI 0xF11E#16 [(1, 1)] 0x0FFF#16) (fun t => (t.i, t.reg 15)) = some (0x1000#16, 0#8) ∧
    after (startI 0xF11E#16 [(1, 0xFF)] 0xFF01#16) (fun t => (t.i, t.reg 15)) =
      some (0#16, 1#8) := by decide
/-- T85: the old VF is added. -/
theorem test_addI_vf : after (startI 0xFF1E#16 [(15, 5)] 0x0100#16) (fun t => (t.i, t.reg 15)) =
    some (0x0105#16, 0#8) := by decide
/-- T87, T89. -/
theorem test_ldF : after (start 0xF029#16 [(0, 0x0F)]) State.i = some 75#16 ∧
    after (start 0xF029#16 [(0, 0xFF)]) State.i = some 1275#16 := by decide
/-- S8. -/
theorem test_ldB : after (startI 0xF033#16 [(0, 123)] 1000#16)
    (fun t => (t.loadBytes 1000 3, t.i)) = some ([1, 2, 3], 1000#16) := by decide
/-- T95: no byte is written. -/
theorem test_ldB_fault : after (startI 0xF033#16 [(0, 255)] 4094#16)
    (fun t => (t.loadBytes 4094 2, t.pc, t.fault)) =
    some ([0, 0], 0x200#16, some ⟨.memOutOfBounds, 0x200#16, 4096⟩) := by decide
/-- T100. -/
theorem test_ldMemVx : after (startI 0xF155#16 [(0, 0x11), (1, 0x22), (2, 0x33)] 0x400#16)
    (fun t => (t.loadBytes 0x400 3, t.i)) = some ([0x11, 0x22, 0], 0x400#16) := by decide
/-- T98. -/
theorem test_ldMemVx_fault : after (startI 0xFF55#16 [(0, 1)] 4081#16)
    (fun t => (t.read 4081, t.fault)) =
    some (0#8, some ⟨.memOutOfBounds, 0x200#16, 4096⟩) := by decide
/-- T101. -/
theorem test_ldVxMem : after (withMem (startI 0xF265#16 [(3, 0x99)] 0x300#16) 0x300 [1, 2, 3, 4])
    (fun t => (t.reg 0, t.reg 1, t.reg 2, t.reg 3, t.i)) =
    some (1#8, 2#8, 3#8, 0x99#8, 0x300#16) := by decide
/-- T103. -/
theorem test_ldVxMem_fault : after (startI 0xF665#16 [(0, 7)] 4090#16)
    (fun t => (t.reg 0, t.pc, t.fault)) =
    some (7#8, 0x200#16, some ⟨.memOutOfBounds, 0x200#16, 4096⟩) := by decide

/-! ## Display -/

/-- T120. -/
theorem test_cls : after ((start 0x00E0#16 []).setPixels (State.reset.pixels.toggle (31, 63)))
    (fun t => (t.pixels.get (31, 63), t.pc)) = some (false, 0x202#16) := by decide
/-- T125: both edges wrap. -/
theorem test_drw_wrap :
    after (withMem (startI 0xD012#16 [(0, 62), (1, 31)] 0x20E#16) 0x20E [0xC3, 0x81])
      (fun t => ([t.pixels.get (31, 62), t.pixels.get (31, 63), t.pixels.get (31, 4),
        t.pixels.get (31, 5), t.pixels.get (0, 62), t.pixels.get (0, 5), t.pixels.get (31, 0),
        t.pixels.get (0, 63)], t.reg 15)) =
      some ([true, true, true, true, true, true, false, false], 0#8) := by decide
/-- T122, T123: a collision, and a 0 bit over a set cell. -/
theorem test_drw_collision :
    after ((withMem (startI 0xD011#16 [] 0x300#16) 0x300 [0x80]).setPixels
      (State.reset.pixels.toggle (0, 0))) (fun t => (t.pixels.get (0, 0), t.reg 15)) =
      some (false, 1#8) ∧
    after ((withMem (startI 0xD011#16 [] 0x300#16) 0x300 [0x80]).setPixels
      (State.reset.pixels.toggle (0, 1))) (fun t => (t.pixels.get (0, 1), t.reg 15)) =
      some (true, 0#8) := by decide
/-- T121, T126: n = 0 reads no memory; a sprite past 4095 faults. -/
theorem test_drw_range :
    after (startI 0xD010#16 [(15, 1)] 0xFFFF#16) (fun t => (t.reg 15, t.fault)) =
      some (0#8, none) ∧
    after (startI 0xD017#16 [(15, 1)] 4090#16) (fun t => (t.reg 15, t.fault)) =
      some (1#8, some ⟨.memOutOfBounds, 0x200#16, 4096⟩) := by decide
/-- T128: glyph 7 of the default font (20_memory.md R64). -/
theorem test_drw_glyph : after (startI 0xD015#16 [] 35#16)
    (fun t => [t.pixels.get (0, 3), t.pixels.get (1, 3), t.pixels.get (1, 2), t.pixels.get (2, 2),
      t.pixels.get (3, 1), t.pixels.get (4, 1), t.pixels.get (4, 0)]) =
    some [true, true, false, true, true, true, false] := by decide

/-! ## Keys and timers -/

/-- T140, T142. -/
theorem test_skp :
    after ((start 0xE09E#16 [(0, 5)]).keyDown 5) State.pc = some 0x204#16 ∧
    after (start 0xE09E#16 [(0, 16)]) (fun t => (t.pc, t.fault)) =
      some (0x200#16, some ⟨.keyIndexOutOfRange, 0x200#16, 16⟩) := by decide
/-- T143, T144. -/
theorem test_sknp :
    after (start 0xE0A1#16 [(0, 5)]) State.pc = some 0x204#16 ∧
    after ((start 0xE0A1#16 [(0, 5)]).keyDown 5) State.pc = some 0x202#16 := by decide
/-- T146: no key, nothing changes. -/
theorem test_ldVxK_waits : after (start 0xF30A#16 [(3, 7)]) (fun t => (t.pc, t.reg 3)) =
    some (0x200#16, 7#8) := by decide
/-- T147: the lowest key wins. -/
theorem test_ldVxK : after (((start 0xF30A#16 []).keyDown 9).keyDown 4)
    (fun t => (t.reg 3, t.pc)) = some (4#8, 0x202#16) := by decide
/-- T150. -/
theorem test_ldVxDT : after ((start 0xF207#16 []).setDt 0x2A#8) (fun t => (t.reg 2, t.dt)) =
    some (0x2A#8, 0x2A#8) := by decide
/-- T151. -/
theorem test_ldDTVx : after (start 0xF115#16 [(1, 7)]) (fun t => (t.dt, t.st)) =
    some (7#8, 0#8) := by decide
/-- T152. -/
theorem test_ldSTVx : after (start 0xF118#16 [(1, 0x3C)]) (fun t => (t.dt, t.st)) =
    some (0#8, 0x3C#8) := by decide

/-! ## Commands -/

/-- T153, S9. -/
theorem test_tick : afterCommand .tick (State.reset.setDt 1#8) (fun t => (t.dt, t.st, t.pc)) =
    some (0#8, 0#8, 0x200#16) ∧
    afterCommand .tick (State.reset.setDt 255#8) (fun t => (t.dt, t.st)) = some (254#8, 0#8) := by
  decide
/-- T173: LOAD leaves the bytes above and `pc`. -/
theorem test_load : afterCommand (.load [0xAA, 0xBB])
    (withMem (State.reset.setPc 0x2F0#16) 0x200 [0x11, 0x22, 0x33, 0x44])
    (fun t => (t.loadBytes 0x200 4, t.pc)) = some ([0xAA, 0xBB, 0x33, 0x44], 0x2F0#16) := by
  decide
/-- T171, T174: an oversize LOAD. -/
theorem test_load_oversize (b : Byte) :
    State.reset.load (List.replicate 3585 b) =
      { State.reset with fault := some ⟨.programTooLarge, 0#16, 3585⟩ } := by
  have h : (List.replicate 3585 b).length = 3585 := List.length_replicate
  rw [State.load, if_pos (by rw [h]; decide), h]
  rfl
/-- T177: keys are independent. -/
theorem test_keys : afterCommand (.keyUp 7) ((State.reset.keyDown 7).keyDown 2)
    (fun t => (t.key 7, t.key 2)) = some (false, true) := by decide
/-- T179, S5: RESET restores the font, the program area and the latch. -/
theorem test_reset : afterCommand .reset
    ((withMem (start 0x6005#16 [(3, 9)]) 0 [0x00]).latch ⟨.stackOverflow, 0x200#16, 0⟩)
    (fun t => (t.loadBytes 0 5, t.read 0x200, t.reg 3, t.fault)) =
    some ([0xF0, 0x90, 0x90, 0x90, 0xF0], 0#8, 0#8, none) := by decide
/-- 20_memory.md R64: the last glyph of the font. -/
theorem test_font : State.reset.loadBytes 75 5 = [0xF0, 0x80, 0xF0, 0x80, 0x80] := by decide
/-- Writing what an address reads as at reset removes its cell (log 22). -/
theorem test_canonical :
    (Memory.write defaultFont [(0x300, 7#8)] 0x300 0#8, Memory.write defaultFont [] 0 0xF0#8) =
    ([], []) := by decide
/-- 20_memory.md R64: the 80 bytes of the default table are what the default FONT gives, so no bit of the
table is lost in its patterns. -/
theorem test_font_default : (List.range 80).map (Memory.unlisted defaultFont) = fontGlyphs.flatten := by
  decide
/-- 00_scope.md R4: with another FONT, RESET puts that one at 0 to 79 and zero from 80 on. -/
theorem test_font_parameter : afterCommand .reset
    (withMem { State.reset with font := Vector.ofFn fun _ => 0x5#4 } 0 [1])
    (fun t => (t.read 0, t.read 80)) = some (0x50#8, 0#8) := by decide
/-- The host's placing of a word, and its decoding. -/
theorem test_withFetchWord : after (State.reset.withFetchWord 16 0xA123) State.i = some 0x123#16 ∧
    decodeTableWord 16 0xA123 = some (.ldI 0x123#12) := by decide

/-! ## Witnesses: states and operands that meet the hypotheses of each statement -/

theorem witness_DecodedWordEncodesToItself : decodeWord 0x6005#16 = .ok (.ldImm 0 0x05#8) := by decide

theorem witness_NoWordSelectsTwoOpcodeRows :
    ∃ r ∈ opcodeTable, r.selects 0x8AB6#16 = true := by decide

theorem witness_StepRunsTheDecodedInstruction :
    (start 0x6005#16 []).fault = none ∧ (start 0x6005#16 []).pc.toNat + 1 ≤ 4095 ∧
    decode [(start 0x6005#16 []).read (start 0x6005#16 []).pc.toNat,
      (start 0x6005#16 []).read ((start 0x6005#16 []).pc.toNat + 1)] =
      .ok (.ldImm 0 5#8, []) := by decide

theorem witness_DecodeMissOnlyAdvancesPc :
    State.reset.fault = none ∧ State.reset.pc.toNat + 1 ≤ 4095 ∧
    ∀ i, decodeWord (wordOfBytes (State.reset.read State.reset.pc.toNat)
      (State.reset.read (State.reset.pc.toNat + 1))) ≠ .ok i := by
  refine ⟨rfl, by decide, fun i h => ?_⟩
  have e : decodeWord (wordOfBytes (State.reset.read State.reset.pc.toNat)
      (State.reset.read (State.reset.pc.toNat + 1))) = .error (.decodeMiss 0#16) := by decide
  rw [e] at h
  cases h

theorem witness_FetchOutOfRangeLatchesFault :
    (State.reset.setPc 4095#16).fault = none ∧ 4095 < (State.reset.setPc 4095#16).pc.toNat + 1 ∧
    4095 < (State.reset.setPc 4096#16).pc.toNat + 1 := by decide

theorem witness_StepWithFaultLatchedChangesNothing :
    (State.reset.latch ⟨.stackOverflow, 0x200#16, 0⟩).fault ≠ none := by decide

theorem witness_StepFaultsAreAllOrNothing : State.reset.fault = none := rfl

theorem witness_RetPopsOrUnderflows :
    0 < ({ State.reset with sp := 1 } : State).sp.val ∧
    0 < ({ State.reset with sp := 16 } : State).sp.val ∧
    State.reset.sp = 0 ∧ State.reset.fault = none := by decide

theorem witness_CallPushesOrOverflows :
    ({ State.reset with sp := 15 } : State).sp.val < 16 ∧
    ({ State.reset with sp := 16 } : State).sp = 16 ∧
    ({ State.reset with sp := 16 } : State).fault = none := by decide

/-- S7: CALL 0x20A at 0x204 and RET at 0x20A. -/
def callState : State :=
  withMem (withMem (State.reset.setPc 0x204#16) 0x204 [0x22, 0x0A]) 0x20A [0x00, 0xEE]

theorem witness_CallThenRetRoundTrips :
    callState.fault = none ∧ callState.pc.toNat + 1 ≤ 4095 ∧ callState.sp.val < 16 ∧
    decode [callState.read callState.pc.toNat, callState.read (callState.pc.toNat + 1)] =
      .ok (.call 0x20A#12, []) ∧ (0x20A#12).toNat + 1 ≤ 4095 ∧
    decode [callState.read (0x20A#12).toNat, callState.read ((0x20A#12).toNat + 1)] =
      .ok (.ret, []) := by decide

theorem witness_AddRegistersSetsCarry : (0 : RegIdx) ≠ 15 ∧ (1 : RegIdx) ≠ 0 ∧ (1 : RegIdx) ≠ 15 := by
  decide

theorem witness_SubRegistersSetsNoBorrow : (14 : RegIdx) ≠ 15 ∧ (1 : RegIdx) ≠ 14 ∧ (1 : RegIdx) ≠ 15 := by
  decide

theorem witness_SubnRegistersSetsNoBorrow : (2 : RegIdx) ≠ 15 ∧ (1 : RegIdx) ≠ 2 ∧ (1 : RegIdx) ≠ 15 := by
  decide

theorem witness_ShiftsCaptureTheBitShiftedOut :
    (3 : RegIdx) ≠ 15 ∧ (1 : RegIdx) ≠ 3 ∧ (1 : RegIdx) ≠ 15 := by decide

theorem witness_RndMasksTheByteItReads :
    ({ State.reset with rndIn := some 0xA7#8 } : State).rndIn = some 0xA7#8 ∧
    State.reset.rndIn = none := by decide

theorem witness_DecimalStoreWritesThreeDigits :
    (State.reset.setI 4093#16).i.toNat + 2 ≤ 4095 ∧ (State.reset.setI 4093#16).memWf = true ∧
    4095 < (State.reset.setI 4094#16).i.toNat + 2 ∧ (State.reset.setI 4094#16).fault = none := by
  decide

theorem witness_RegisterDumpStoresV0ToVx :
    (State.reset.setI 4080#16).i.toNat + (15 : RegIdx).val ≤ 4095 ∧
    (State.reset.setI 4080#16).memWf = true ∧
    4095 < (State.reset.setI 4081#16).i.toNat + (15 : RegIdx).val ∧
    (State.reset.setI 4081#16).fault = none := by decide

theorem witness_RegisterLoadReadsV0ToVx :
    (State.reset.setI 4095#16).i.toNat + (0 : RegIdx).val ≤ 4095 ∧ (0 : RegIdx) < 1 ∧
    4095 < (State.reset.setI 4096#16).i.toNat + (0 : RegIdx).val ∧
    (State.reset.setI 4096#16).fault = none := by decide

theorem witness_MemoryReadsTheLastWrite : Memory.wf defaultFont [(0x300, 7#8)] = true ∧ (4095 ≤ 4095) := by decide

theorem witness_StoredBytesAreFetchedAtOnce :
    (State.reset.setI 4094#16).memWf = true ∧
    (State.reset.setI 4094#16).i.toNat + (1 : RegIdx).val ≤ 4095 ∧
    (1 : RegIdx).val = (0 : RegIdx).val + 1 ∧ (1 : RegIdx) ≤ 1 := by decide

/-- A sprite of one pixel at the last byte of memory, drawn at the origin. -/
def spriteState : State := withMem (State.reset.setI 4095#16) 4095 [0x80]

theorem spriteState_bit : SpriteBit spriteState 0 1 1#4 (0, 0) :=
  ⟨0, 0, by decide, by decide, by decide, by decide, by decide⟩

theorem spriteState_noBit : ¬ SpriteBit spriteState 0 1 1#4 (1, 0) := by
  rintro ⟨r, c, hr, -, h, -, -⟩
  have h0 : r = 0 := by simpa using hr
  subst h0
  revert h
  decide

/-- The same with the sprite's cell set. -/
def spriteStateSet : State := spriteState.setPixels (spriteState.pixels.toggle (0, 0))

theorem spriteStateSet_all (p : PixelIdx) (h : SpriteBit spriteStateSet 0 1 1#4 p) :
    spriteStateSet.pixels.get p = true := by
  obtain ⟨r, c, hr, hc, h1, h2, hb⟩ := h
  have h0 : r = 0 := by simpa using hr
  subst h0
  have hc0 : c = 0 := by
    have : ∀ c < 8, (spriteStateSet.read (spriteStateSet.i.toNat + 0)).getLsbD (7 - c) = true → c = 0 := by
      decide
    exact this c hc hb
  subst hc0
  have e : p = (0, 0) := Prod.ext (Fin.ext h1.symm) (Fin.ext h2.symm)
  rw [e]; decide

theorem witness_DrwTogglesExactlyTheSpriteCells :
    ((0#4 = 0#4 ∨ (State.reset.setI 0xFFFF#16).i.toNat + (0#4).toNat ≤ 4096) ∧
      (1#4 = 0#4 ∨ spriteState.i.toNat + (1#4).toNat ≤ 4096)) ∧
    (∃ p, SpriteBit spriteState 0 1 1#4 p) ∧ (∃ p, ¬ SpriteBit spriteState 0 1 1#4 p) ∧
    (∃ p, SpriteBit (spriteState.setPixels (spriteState.pixels.toggle (0, 0))) 0 1 1#4 p ∧
      (spriteState.setPixels (spriteState.pixels.toggle (0, 0))).pixels.get p = true) ∧
    (∀ p, SpriteBit (State.reset.setI 0#16) 0 1 0#4 p → State.reset.pixels.get p = false) :=
  ⟨by decide, ⟨(0, 0), spriteState_bit⟩, ⟨(1, 0), spriteState_noBit⟩,
    ⟨(0, 0), spriteState_bit, by decide⟩, fun _ ⟨_, _, h, _⟩ => absurd h (by simp)⟩

theorem witness_DrwOutOfRangeLatchesFault :
    1#4 ≠ 0#4 ∧ 4095 < (State.reset.setI 4096#16).i.toNat + (1#4).toNat - 1 ∧
    (State.reset.setI 4096#16).fault = none := by decide

theorem witness_DrawingTwiceRestoresTheDisplay :
    ∃ t u, (1#4 = 0#4 ∨ spriteState.i.toNat + (1#4).toNat ≤ 4096) ∧
      exec (.drw 0 1 1#4) spriteState = .next t ∧ t.reg 0 = spriteState.reg 0 ∧
      t.reg 1 = spriteState.reg 1 ∧ exec (.drw 0 1 1#4) t = .next u ∧
      SpriteBit spriteState 0 1 1#4 (0, 0) ∧ spriteState.pixels.get (0, 0) = false :=
  ⟨_, _, by decide, show execDrw 0 1 1#4 _ = _ from guardRange_inside (by decide), by simp [vf],
    by simp [vf], show execDrw 0 1 1#4 _ = _ from guardRange_inside (by simp; decide),
    spriteState_bit, by decide⟩

/-- The third clause: every cell of the sprite, the one at (0, 0), was set before the first draw. -/
theorem witness_DrawingTwice_allSet :
    ∃ t u, exec (.drw 0 1 1#4) spriteStateSet = .next t ∧ t.reg 0 = spriteStateSet.reg 0 ∧
      t.reg 1 = spriteStateSet.reg 1 ∧ exec (.drw 0 1 1#4) t = .next u ∧
      ∀ p, SpriteBit spriteStateSet 0 1 1#4 p → spriteStateSet.pixels.get p = true :=
  ⟨_, _, show execDrw 0 1 1#4 _ = _ from guardRange_inside (by decide), by simp [vf],
    by simp [vf], show execDrw 0 1 1#4 _ = _ from guardRange_inside (by simp; decide),
    spriteStateSet_all⟩

theorem witness_KeySkipsFollowTheLatch :
    ((withRegs State.reset [(0, 15)]).reg 0).toNat = (15 : KeyIdx).val ∧
    15 < ((withRegs State.reset [(0, 16)]).reg 0).toNat ∧
    (withRegs State.reset [(0, 16)]).fault = none := by decide

theorem witness_KeyWaitTakesLowestKeyOrHolds :
    ((State.reset.keyDown 15).key 15 = true ∧ ∀ j, j < 15 → (State.reset.keyDown 15).key j = false) ∧
    ∀ k, State.reset.key k = false := by decide

theorem witness_LoadWritesTheProgramOnly (b : Byte) :
    (List.replicate 3584 b).length ≤ 3584 ∧ State.reset.memWf = true ∧
    3584 < (List.replicate 3585 b).length ∧ State.reset.fault = none ∧
    (State.reset.latch ⟨.stackOverflow, 0x200#16, 0⟩).fault ≠ none := by
  have h : ∀ n, (List.replicate n b).length = n := fun _ => List.length_replicate
  exact ⟨by rw [h], rfl, by rw [h]; decide, rfl, by decide⟩

theorem witness_OnlyResetClearsTheFaultLatch :
    ∃ t u, (State.reset.latch ⟨.stackOverflow, 0x200#16, 0⟩).fault ≠ none ∧
      command .tick (State.reset.latch ⟨.stackOverflow, 0x200#16, 0⟩) = .next t ∧
      Command.tick ≠ .reset ∧
      command .reset (State.reset.latch ⟨.stackOverflow, 0x200#16, 0⟩) = .next u :=
  ⟨_, _, by decide, rfl, by decide, rfl⟩

theorem witness_StepOperandIsReadOnlyByRnd :
    (start 0xC20F#16 []).fault = none ∧ (start 0xC20F#16 []).pc.toNat + 1 ≤ 4095 ∧
    decode (start 0xC20F#16 []).fetchBytes = .ok (.rnd 2 0x0F#8, []) ∧
    ¬ (State.reset.setPc 4095#16).pc.toNat + 1 ≤ 4095 ∧
    ∀ x nn, decode (start 0x6005#16 []).fetchBytes ≠ .ok (.rnd x nn, []) := by
  refine ⟨by decide, by decide, by decide, by decide, fun x nn h => ?_⟩
  have e : decode (start 0x6005#16 []).fetchBytes = .ok (.ldImm 0 5#8, []) := by decide
  rw [e] at h
  cases h

theorem witness_PcAfterEveryInstruction :
    ∃ t, State.reset.fault = none ∧ exec (.jp 0x300#12) State.reset = .next t ∧ t.fault = none :=
  ⟨_, rfl, rfl, rfl⟩

theorem witness_OnlyNamedRegistersAreWritten :
    ∃ t, exec (.addReg 1 2) State.reset = .next t ∧ ¬ writesReg (.addReg 1 2) 3 :=
  ⟨_, rfl, by simp [writesReg]⟩

theorem witness_SpecialCellsChangeOnlyByTheirInstructions :
    ∃ t, exec (.ldI 0x300#12) State.reset = .next t := ⟨_, rfl⟩

theorem witness_MemoryChangesOnlyInTheStoredBytes :
    ∃ t, exec (.ldB 0) (State.reset.setI 0x300#16) = .next t ∧
      ¬ storesTo (.ldB 0) (State.reset.setI 0x300#16) 0x303 ∧
      ¬ storesTo (.ldB 0) (State.reset.setI 0x300#16) 0x2FF :=
  ⟨_, show execLdB 0 _ = _ from guardRange_inside (by decide), by simp [storesTo, State.base], by simp [storesTo, State.base]⟩

theorem witness_CanonicalMemoryIsKept :
    ∃ t u, State.reset.memWf = true ∧ step State.reset = .next t ∧
      command (.load [0x60, 0x05]) State.reset = .next u := ⟨_, _, rfl, rfl, rfl⟩

theorem witness_FaultLatchStaysConsistent :
    ∃ t u, State.reset.latchConsistent ∧ step State.reset = .next t ∧
      command .tick State.reset = .next u := ⟨_, _, trivial, rfl, rfl⟩

/-- The clauses of `latchConsistent`, each at a boundary value: the highest fetch that is in range, the
lowest `I` that a store of sixteen registers cannot use, the lowest value that is no key. -/
theorem witness_latchConsistent_clauses :
    ({ State.reset with sp := 16 }.latch ⟨.stackOverflow, 0x200#16, 0⟩).latchConsistent ∧
    (State.reset.latch ⟨.stackUnderflow, 0x200#16, 0⟩).latchConsistent ∧
    ((State.reset.setPc 4095#16).latch ⟨.memOutOfBounds, 4095#16, 4096⟩).latchConsistent ∧
    (((State.reset.setPc 4094#16).setI 4081#16).latch
      ⟨.memOutOfBounds, 4094#16, 4096⟩).latchConsistent ∧
    ((withRegs State.reset [(0, 16)]).latch ⟨.keyIndexOutOfRange, 0x200#16, 16⟩).latchConsistent ∧
    (State.reset.latch ⟨.programTooLarge, 0#16, 3585⟩).latchConsistent :=
  ⟨⟨rfl, rfl, rfl⟩, ⟨rfl, rfl, rfl⟩, ⟨rfl, .inl ⟨by decide, rfl⟩⟩,
    ⟨rfl, .inr ⟨by decide, by decide, rfl⟩⟩, ⟨rfl, by decide, 0, rfl⟩, ⟨rfl, by decide⟩⟩

theorem witness_PcAndReturnAddressesStayBounded :
    ∃ t u, State.reset.pcBounded ∧ step State.reset = .next t ∧
      command .tick State.reset = .next u :=
  ⟨_, _, by unfold State.pcBounded; decide, rfl, rfl⟩

theorem witness_TerminatedProgramIsAFixedPoint : (start 0x1200#16 []).terminated :=
  ⟨rfl, by decide, 0x200#12, [], by decide, by decide⟩

theorem witness_ZeroedMemoryIsWalkedAsNoOps :
    State.reset.fault = none ∧ State.reset.pc.toNat + 2 * 1792 ≤ 4096 ∧
    ∀ a, State.reset.pc.toNat ≤ a → a < State.reset.pc.toNat + 2 * 1792 →
      State.reset.read a = 0#8 := by
  refine ⟨rfl, by decide, fun a h _ => ?_⟩
  have h' : 512 ≤ a := h
  rw [read_nil rfl, Memory.unlisted_zero (by omega)]

end Sys2Proof.Tests
end

section
/-! SUPPORT. Control transfer: the targets of the jumps and the skips as numbers, the meaning of each
instruction as one change of `pc`, and the statements about jumps and register skips. -/

namespace Sys2Proof.Machine

/-! ## Jump targets -/

/-- `zext_16(nnn)` keeps its value (30_encoding.md R72). -/
@[simp] theorem toNat_zext16 (nnn : BitVec 12) : (zext16 nnn).toNat = nnn.toNat :=
  BitVec.toNat_setWidth_of_le (by decide)

/-- The reduction in R109 is never felt: the target is at most 4095 + 255 (40_control_flow.md R109). -/
@[simp] theorem toNat_offsetTarget (nnn : BitVec 12) (v0 : Byte) :
    (offsetTarget nnn v0).toNat = nnn.toNat + v0.toNat := by
  have hsum : nnn.toNat + v0.toNat < 2 ^ 16 := by omega
  rw [offsetTarget, BitVec.toNat_ofNat, Nat.mod_eq_of_lt hsum]

/-! ## Skips on a comparison of bytes -/

/-- A skip on equality: 4 where the bytes are equal (40_control_flow.md R105, R107). -/
theorem advance_skipIf_beq (s : State) (a b : Byte) :
    s.advance.skipIf (a == b) = { s with pc := if a = b then s.pc + 4#16 else s.pc + 2#16 } := by
  rw [advance_skipIf]
  by_cases h : a = b <;> simp [h]

/-- A skip on inequality: 2 where the bytes are equal (40_control_flow.md R106, R108). -/
theorem advance_skipIf_bne (s : State) (a b : Byte) :
    s.advance.skipIf (a != b) = { s with pc := if a = b then s.pc + 2#16 else s.pc + 4#16 } := by
  rw [advance_skipIf]
  by_cases h : a = b <;> simp [h]

/-! ## The meanings, as one change of `pc` -/

theorem exec_jp (nnn : BitVec 12) (s : State) :
    exec (.jp nnn) s = .next { s with pc := zext16 nnn } := rfl

theorem exec_jpV0 (nnn : BitVec 12) (s : State) :
    exec (.jpV0 nnn) s = .next { s with pc := offsetTarget nnn (s.reg 0) } := rfl

theorem exec_seImm (x : RegIdx) (nn : Byte) (s : State) :
    exec (.seImm x nn) s =
      .next { s with pc := if s.reg x = nn then s.pc + 4#16 else s.pc + 2#16 } :=
  congrArg Host.Outcome.next (advance_skipIf_beq s (s.reg x) nn)

theorem exec_sneImm (x : RegIdx) (nn : Byte) (s : State) :
    exec (.sneImm x nn) s =
      .next { s with pc := if s.reg x = nn then s.pc + 2#16 else s.pc + 4#16 } :=
  congrArg Host.Outcome.next (advance_skipIf_bne s (s.reg x) nn)

theorem exec_seReg (x y : RegIdx) (s : State) :
    exec (.seReg x y) s =
      .next { s with pc := if s.reg x = s.reg y then s.pc + 4#16 else s.pc + 2#16 } :=
  congrArg Host.Outcome.next (advance_skipIf_beq s (s.reg x) (s.reg y))

theorem exec_sneReg (x y : RegIdx) (s : State) :
    exec (.sneReg x y) s =
      .next { s with pc := if s.reg x = s.reg y then s.pc + 2#16 else s.pc + 4#16 } :=
  congrArg Host.Outcome.next (advance_skipIf_bne s (s.reg x) (s.reg y))

/-! ## The statements -/

/-- Settles O15: each jump is a write of `pc` alone, and neither target is reduced. -/
theorem jumpsSetPcOnly : Obligations.JumpsSetPcOnly := by
  intro nnn s
  exact ⟨⟨_, exec_jp nnn s, rfl, toNat_zext16 nnn⟩,
    ⟨_, exec_jpV0 nnn s, rfl, toNat_offsetTarget nnn (s.reg 0)⟩⟩

/-- Settles O17: each register skip is the advance and a skip on one comparison of bytes. -/
theorem registerSkipsMovePcBy2Or4 : Obligations.RegisterSkipsMovePcBy2Or4 := by
  intro x y nn s
  exact ⟨exec_seImm x nn s, exec_sneImm x nn s, exec_seReg x y s, exec_sneReg x y s⟩

end Sys2Proof.Machine
end

section
/-! SUPPORT. Load and arithmetic: what a write of one register after the advance changes and leaves, the
wrapping sum as a number, the literal instructions as one such write, and the statement about them. -/

namespace Sys2Proof.Machine

/-! ## A write of one register -/

/-- The written register holds the byte. -/
theorem reg_setReg_same (s : State) (x : RegIdx) (b : Byte) : (s.setReg x b).reg x = b := by
  rw [State.reg_setReg, if_pos rfl]

/-- Every other register is kept: VF too, unless it is the one written. -/
theorem reg_setReg_other (s : State) {x r : RegIdx} (b : Byte) (h : r ≠ x) :
    (s.setReg x b).reg r = s.reg r := by
  rw [State.reg_setReg, if_neg h.symm]

/-- The frame of the instructions that write Vx alone: every cell but `pc` and the registers is kept. -/
theorem advance_setReg_frame (s : State) (x : RegIdx) (b : Byte) :
    s.advance.setReg x b = { s with pc := s.pc + 2#16, v := (s.advance.setReg x b).v } := rfl

/-! ## The wrapping sum -/

/-- The sum of two bytes is reduced modulo 256 (41_load_alu.md R120, R122). -/
@[simp] theorem toNat_addByte (a b : Byte) : (addByte a b).toNat = (a.toNat + b.toNat) % 256 :=
  BitVec.toNat_ofNat _ _

/-! ## The meanings, as one write of a register -/

theorem exec_ldImm (x : RegIdx) (nn : Byte) (s : State) :
    exec (.ldImm x nn) s = .next (s.advance.setReg x nn) := rfl

theorem exec_addImm (x : RegIdx) (nn : Byte) (s : State) :
    exec (.addImm x nn) s = .next (s.advance.setReg x (addByte (s.reg x) nn)) := rfl

/-! ## The statement -/

/-- Settles O19: each literal instruction is the advance and one write of Vx, so VF changes only when it
is Vx. -/
theorem literalLoadAndAdd : Obligations.LiteralLoadAndAdd := by
  intro x nn s
  have others (b : Byte) (r : RegIdx) (h : r ≠ x) : (s.advance.setReg x b).reg r = s.reg r :=
    reg_setReg_other s.advance b h
  refine ⟨⟨_, exec_ldImm x nn s, advance_setReg_frame s x _, ?load, others _⟩,
    ⟨_, exec_addImm x nn s, advance_setReg_frame s x _, ?add, others _⟩⟩
  case load => exact reg_setReg_same s.advance x nn
  case add => rw [reg_setReg_same, toNat_addByte]

end Sys2Proof.Machine
end

section
/-! SUPPORT. The index register: what a write of it after the advance changes and leaves, the glyph
address as a number, the two loads of it as one such write, and the statement about them. -/

namespace Sys2Proof.Machine

/-! ## A write of the index register -/

/-- The frame of the instructions that write `I` alone: every cell but `pc` and `I` is kept. -/
theorem advance_setI_frame (s : State) (a : Word) :
    s.advance.setI a = { s with pc := s.pc + 2#16, i := (s.advance.setI a).i } := rfl

/-! ## The glyph address -/

/-- The whole byte counts and nothing is reduced: the address is at most 255 * 5
(42_index_memory.md R142). -/
@[simp] theorem toNat_glyphAddress (b : Byte) : (glyphAddress b).toNat = b.toNat * 5 := by
  have hbound : b.toNat * 5 < 2 ^ 16 := by omega
  rw [glyphAddress, BitVec.toNat_ofNat, Nat.mod_eq_of_lt hbound]

/-! ## The meanings, as one write of the index register -/

theorem exec_ldI (nnn : BitVec 12) (s : State) :
    exec (.ldI nnn) s = .next (s.advance.setI (zext16 nnn)) := rfl

theorem exec_ldF (x : RegIdx) (s : State) :
    exec (.ldF x) s = .next (s.advance.setI (glyphAddress (s.reg x))) := rfl

/-! ## The statement -/

/-- Settles O26: each load of `I` is the advance and one write of `I`, of a value that fits 16 bits. -/
theorem indexLoadsSetIndexOnly : Obligations.IndexLoadsSetIndexOnly := by
  intro nnn x s
  refine ⟨⟨_, exec_ldI nnn s, advance_setI_frame s _, ?literal⟩,
    ⟨_, exec_ldF x s, advance_setI_frame s _, ?glyph⟩⟩
  case literal => rw [State.setI_i, toNat_zext16]
  case glyph => rw [State.setI_i, toNat_glyphAddress]

end Sys2Proof.Machine
end

section
/-! SUPPORT. The cleared display: what a write of the display after the advance changes and leaves, CLS as
one such write, and the statement about it. -/

namespace Sys2Proof.Machine

/-! ## A write of the display -/

/-- The frame of the instructions that write the display alone: every cell but `pc` and the display is
kept. -/
theorem advance_setPixels_frame (s : State) (d : Display) :
    s.advance.setPixels d = { s with pc := s.pc + 2#16, pixels := (s.advance.setPixels d).pixels } :=
  rfl

/-! ## The meaning, as one write of the display -/

theorem exec_cls (s : State) : exec .cls s = .next (s.advance.setPixels Display.clear) := rfl

/-! ## The statement -/

/-- Settles O33: CLS is the advance and one write of the display, of the one whose cells are all 0. -/
theorem clsClearsEveryCell : Obligations.ClsClearsEveryCell := by
  intro s
  refine ⟨_, exec_cls s, advance_setPixels_frame s _, fun p => ?_⟩
  rw [State.setPixels_pixels, Display.get_clear]

end Sys2Proof.Machine
end

section
/-! SUPPORT. The decoder and the encoder: each undoes the other, the words that no row takes, and
the opcode table as the same map. With the statements about them. -/

namespace Sys2Proof

/-! ## Decoding a word -/

/-- The decoder accepts a word exactly where a row takes it. -/
theorem decodeWord_eq_ok {w : Word} {i : Instr} : decodeWord w = .ok i ↔ decodeRow w = some i := by
  unfold decodeWord
  cases decodeRow w <;> simp

/-- The decoder rejects a word exactly where no row takes it. -/
theorem decodeWord_eq_miss {w : Word} :
    decodeWord w = .error (.decodeMiss w) ↔ decodeRow w = none := by
  unfold decodeWord
  cases decodeRow w <;> simp

/-- The one group left after 0 to 14 is 15. -/
theorem eq_groupF : ∀ g : BitVec 4, g ≠ 0x0#4 → g ≠ 0x1#4 → g ≠ 0x2#4 → g ≠ 0x3#4 → g ≠ 0x4#4 →
    g ≠ 0x5#4 → g ≠ 0x6#4 → g ≠ 0x7#4 → g ≠ 0x8#4 → g ≠ 0x9#4 → g ≠ 0xA#4 → g ≠ 0xB#4 →
    g ≠ 0xC#4 → g ≠ 0xD#4 → g ≠ 0xE#4 → g = 0xF#4 := by bv_omega

/-! ## The round trips -/

/-- The row that an instruction was written from takes its word, and reads back the operands. -/
theorem decodeRow_encode (i : Instr) : decodeRow (encode i) = some i := by
  cases i with
  | cls | ret => rfl
  | jp | call | ldI | jpV0 | seImm | sneImm | ldImm | addImm | rnd | skp | sknp | seReg | sneReg
  | drw => simp [encode, decodeRow]
  | ldReg | orReg | andReg | xorReg | addReg | subReg | shr | subnReg | shl =>
    simp [encode, decodeRow, decodeGroup8]
  | ldVxDT | ldVxK | ldDTVx | ldSTVx | addI | ldF | ldB | ldMemVx | ldVxMem =>
    simp [encode, decodeRow, decodeGroupF]

/-- Group 8 keeps both registers and the low nibble. -/
theorem encode_of_decodeGroup8 {w : Word} {i : Instr} (h : decodeGroup8 w = some i) :
    encode i = formatXYN 0x8#4 (fieldX w) (fieldY w) (fieldN w) := by
  unfold decodeGroup8 at h
  split at h <;> cases h <;> simp only [encode, *]

/-- Group F keeps the register and the low byte. -/
theorem encode_of_decodeGroupF {w : Word} {i : Instr} (h : decodeGroupF w = some i) :
    encode i = formatXNN 0xF#4 (fieldX w) (fieldNN w) := by
  unfold decodeGroupF at h
  split at h <;> cases h <;> simp only [encode, *]

/-- An instruction read from a word is written from all the fields of that word, so no bit is
dropped. -/
theorem encode_of_decodeRow {w : Word} {i : Instr} (h : decodeRow w = some i) : encode i = w := by
  have hNNN := eq_formatNNN w
  have hXNN := eq_formatXNN w
  have hXYN := eq_formatXYN w
  unfold decodeRow at h
  split at h
  case h_1 => split_ifs at h with h₁ h₂ <;> cases h <;> simp only [encode, *]
  case h_9 hG => rw [encode_of_decodeGroup8 h, ← hG, hXYN]
  case h_16 =>
    have hG : fieldG w = 0xF#4 := by apply eq_groupF <;> assumption
    rw [encode_of_decodeGroupF h, ← hG, hXNN]
  case h_6 | h_10 | h_15 => split_ifs at h <;> cases h <;> simp_all only [encode]
  all_goals cases h; simp_all only [encode]

/-- Settles O1: the row that the instruction was written from takes its word. -/
theorem encodedInstructionDecodesToItself : Obligations.EncodedInstructionDecodesToItself := by
  intro i rest
  rw [decode_bytes, decodeWord_eq_ok.2 (decodeRow_encode i)]
  rfl

/-- Settles O2: the fields that the decoder cuts out are the whole word. -/
theorem decodedWordEncodesToItself : Obligations.DecodedWordEncodesToItself := by
  intro w i h
  exact encode_of_decodeRow (decodeWord_eq_ok.1 h)

/-- Settles O6: eight words, decoded. -/
theorem wordsOfTheSpecDecodeAsItSays : Obligations.WordsOfTheSpecDecodeAsItSays := by
  unfold Obligations.WordsOfTheSpecDecodeAsItSays
  decide

/-! ## The decode misses (30_encoding.md R76) -/

theorem toNat_fieldG (w : Word) : (fieldG w).toNat = w.toNat / 4096 := by
  simp only [fieldG, BitVec.extractLsb'_toNat, Nat.shiftRight_eq_div_pow]
  omega

theorem toNat_fieldN (w : Word) : (fieldN w).toNat = w.toNat % 16 := by
  simp [fieldN]

theorem toNat_fieldNN (w : Word) : (fieldNN w).toNat = w.toNat % 256 := by
  simp [fieldNN]

theorem decodeGroup8_eq_none {w : Word} :
    decodeGroup8 w = none ↔ (fieldN w).toNat ∈ [8, 9, 0xA, 0xB, 0xC, 0xD, 0xF] := by
  unfold decodeGroup8
  split
  case h_10 =>
    refine iff_of_true rfl ?_
    generalize fieldN w = n at *
    revert n
    decide
  all_goals simp [*]

theorem decodeGroupF_eq_none {w : Word} :
    decodeGroupF w = none ↔
      (fieldNN w).toNat ∉ [0x07, 0x0A, 0x15, 0x18, 0x1E, 0x29, 0x33, 0x55, 0x65] := by
  unfold decodeGroupF
  split
  case h_10 => simp_all [← BitVec.toNat_inj]
  all_goals simp [*]

/-- The misses by group, with groups 8 and F left to their own tables. -/
theorem decodeRow_eq_none {w : Word} : decodeRow w = none ↔
    (fieldG w = 0x0#4 ∧ w ≠ 0x00E0#16 ∧ w ≠ 0x00EE#16) ∨ (fieldG w = 0x5#4 ∧ fieldN w ≠ 0x0#4) ∨
    (fieldG w = 0x8#4 ∧ decodeGroup8 w = none) ∨ (fieldG w = 0x9#4 ∧ fieldN w ≠ 0x0#4) ∨
    (fieldG w = 0xE#4 ∧ fieldNN w ≠ 0x9E#8 ∧ fieldNN w ≠ 0xA1#8) ∨
    (fieldG w = 0xF#4 ∧ decodeGroupF w = none) := by
  unfold decodeRow
  split
  case h_1 hG | h_15 hG => simp only [hG]; split_ifs <;> simp_all
  case h_16 =>
    have hG : fieldG w = 0xF#4 := by apply eq_groupF <;> assumption
    simp [hG]
  all_goals simp [*]

/-- Settles O5: the misses of each group, with the fields read as numbers. -/
theorem decodeMissesAreTheOnesListed : Obligations.DecodeMissesAreTheOnesListed := by
  intro w
  rw [decodeWord_eq_miss, decodeRow_eq_none, decodeGroup8_eq_none, decodeGroupF_eq_none]
  simp [← toNat_fieldG, ← toNat_fieldN, ← toNat_fieldNN, ← BitVec.toNat_inj]

/-! ## The opcode table (30_encoding.md R74) -/

theorem selects_iff {r : OpcodeRow} {w : Word} : r.selects w = true ↔ w &&& r.mask = r.bits := by
  rw [OpcodeRow.selects, beq_iff_eq]

/-- Any two rows differ in a bit that both of their masks cover. -/
theorem opcodeTable_pairwise :
    opcodeTable.Pairwise fun r r' => r.bits &&& r'.mask ≠ r'.bits &&& r.mask := by decide

/-- Settles O4: a word that two rows select agrees with both in every bit that both masks cover. -/
theorem noWordSelectsTwoOpcodeRows : Obligations.NoWordSelectsTwoOpcodeRows := by
  intro w r r' hr hr' h h'
  rw [selects_iff] at h h'
  by_contra hne
  have : Std.Symm fun r r' : OpcodeRow => r.bits &&& r'.mask ≠ r'.bits &&& r.mask :=
    ⟨fun _ _ h => h.symm⟩
  refine opcodeTable_pairwise.forall hr hr' hne ?_
  rw [← h, ← h', BitVec.and_assoc, BitVec.and_assoc, BitVec.and_comm r.mask]

section Masks

variable (g : BitVec 4) (x y : RegIdx) (n : BitVec 4) (nn : Byte) (nnn : BitVec 12)

/-- The mask of the group alone keeps the group. -/
theorem formatNNN_and_group : formatNNN g nnn &&& 0xF000#16 = g ++ 0#12 := by
  change (g ++ nnn) &&& (BitVec.allOnes 4 ++ 0#12) = _
  simp only [BitVec.and_append, BitVec.and_allOnes, BitVec.and_zero]

theorem formatXNN_and_group : formatXNN g x nn &&& 0xF000#16 = g ++ 0#12 :=
  formatNNN_and_group g _

theorem formatXYN_and_group : formatXYN g x y n &&& 0xF000#16 = g ++ 0#12 :=
  formatNNN_and_group g _

/-- The mask of the group and the low byte keeps both. -/
theorem formatXNN_and_byte : formatXNN g x nn &&& 0xF0FF#16 = g ++ (0#4 ++ nn) := by
  change (g ++ (regBits x ++ nn)) &&& (BitVec.allOnes 4 ++ (0#4 ++ BitVec.allOnes 8)) = _
  simp only [BitVec.and_append, BitVec.and_allOnes, BitVec.and_zero]

/-- The mask of the group and the low nibble keeps both. -/
theorem formatXYN_and_nibble : formatXYN g x y n &&& 0xF00F#16 = g ++ (0#4 ++ (0#4 ++ n)) := by
  change (g ++ (regBits x ++ (regBits y ++ n))) &&&
    (BitVec.allOnes 4 ++ (0#4 ++ (0#4 ++ BitVec.allOnes 4))) = g ++ (0#4 ++ (0#4 ++ n))
  simp only [BitVec.and_append, BitVec.and_allOnes, BitVec.and_zero]

end Masks

/-- The row of an instruction's mnemonic selects the instruction's word. -/
theorem row_selects_encode (i : Instr) :
    ∃ r, opcodeTable.find? (fun r => r.mnemonic == i.mnemonic) = some r ∧
      r.selects (encode i) = true := by
  cases i <;> refine ⟨_, rfl, selects_iff.2 ?_⟩
  all_goals
    simp [encode, formatNNN_and_group, formatXNN_and_group, formatXYN_and_group,
      formatXNN_and_byte, formatXYN_and_nibble]

section Fields

variable {w m b : Word}

/-- A mask of all bits fixes the word. -/
theorem eq_of_and_all (h : w &&& 0xFFFF#16 = b) : w = b := BitVec.and_allOnes.symm.trans h

/-- A mask that covers the group fixes it. -/
theorem fieldG_of_and (h : w &&& m = b) (hm : fieldG m = BitVec.allOnes 4) :
    fieldG w = fieldG b := by
  unfold fieldG at *
  rw [← h, BitVec.extractLsb'_and, hm, BitVec.and_allOnes]

/-- A mask that covers the low nibble fixes it. -/
theorem fieldN_of_and (h : w &&& m = b) (hm : fieldN m = BitVec.allOnes 4) :
    fieldN w = fieldN b := by
  unfold fieldN at *
  rw [← h, BitVec.extractLsb'_and, hm, BitVec.and_allOnes]

/-- A mask that covers the low byte fixes it. -/
theorem fieldNN_of_and (h : w &&& m = b) (hm : fieldNN m = BitVec.allOnes 8) :
    fieldNN w = fieldNN b := by
  unfold fieldNN at *
  rw [← h, BitVec.extractLsb'_and, hm, BitVec.and_allOnes]

end Fields

/-- A word that a row selects has the fields that the row's mask covers, so the decoder takes it
under that row's mnemonic. -/
theorem decodeRow_of_selects {w : Word} {r : OpcodeRow} (hr : r ∈ opcodeTable)
    (h : r.selects w = true) : ∃ i, decodeRow w = some i ∧ i.mnemonic = r.mnemonic := by
  rw [selects_iff] at h
  have hG := fieldG_of_and h
  have hN := fieldN_of_and h
  have hNN := fieldNN_of_and h
  fin_cases hr
  · obtain rfl := eq_of_and_all h
    exact ⟨.cls, rfl, rfl⟩
  · obtain rfl := eq_of_and_all h
    exact ⟨.ret, rfl, rfl⟩
  all_goals
    simp [fieldG, fieldN, fieldNN] at hG hN hNN
    simp [decodeRow, decodeGroup8, decodeGroupF, fieldG, fieldN, fieldNN, Instr.mnemonic, *]

/-- Settles O3: a decoded word is the word of its instruction, which the row of its mnemonic
selects; and a selected word has the fields of the row. -/
theorem decoderAgreesWithMaskAndMatchTable : Obligations.DecoderAgreesWithMaskAndMatchTable := by
  intro w
  simp only [decodeWord_eq_ok]
  refine ⟨fun i h => ?_, fun r hr h => decodeRow_of_selects hr h⟩
  obtain ⟨r, hfind, hsel⟩ := row_selects_encode i
  rw [encode_of_decodeRow h] at hsel
  have hname := List.find?_some hfind
  exact ⟨r, List.mem_of_find?_eq_some hfind, hsel, by simpa using hname⟩

end Sys2Proof
end

section
/-! SUPPORT. Register instructions: what a flag write after a result leaves, the arithmetic results
and flags as numbers, the byte that RND reads, and the statements about the instructions that write
registers, `I` with a flag, or a timer. -/

namespace Sys2Proof.Machine

/-! ## A result and then a flag (41_load_alu.md R120) -/

section Flagged

variable (s : State) (x : RegIdx) (b : Byte) (f : Bool)

/-- The frame of the instructions that write Vx and then VF. -/
theorem advance_setReg_setFlag_frame : (s.advance.setReg x b).setFlag f =
    { s with pc := s.pc + 2#16, v := ((s.advance.setReg x b).setFlag f).v } := rfl

/-- VF holds the flag, whatever was written before it. -/
theorem reg_setFlag_vf : (s.setFlag f).reg 15 = flagByte f := reg_setReg_same s vf _

/-- Every register but VF is kept by a flag write. -/
theorem reg_setFlag_other {r : RegIdx} (h : r ≠ 15) : (s.setFlag f).reg r = s.reg r :=
  reg_setReg_other s _ h

/-- The result is there unless Vx is VF. -/
theorem reg_result {x : RegIdx} (h : x ≠ 15) : ((s.advance.setReg x b).setFlag f).reg x = b := by
  rw [reg_setFlag_other _ _ h, reg_setReg_same]

/-- Every register but Vx and VF is kept. -/
theorem reg_result_other {r : RegIdx} (hx : r ≠ x) (hvf : r ≠ 15) :
    ((s.advance.setReg x b).setFlag f).reg r = s.reg r := by
  rw [reg_setFlag_other _ _ hvf, reg_setReg_other _ _ hx, State.reg_advance]

end Flagged

/-! ## Results and flags as numbers -/

/-- A flag that says whether a condition holds (41_load_alu.md R120). -/
theorem flagByte_decide (p : Prop) [Decidable p] :
    flagByte (decide p) = if p then 1#8 else 0#8 := by
  by_cases h : p <;> simp [flagByte, h]

@[simp] theorem toNat_flagByte (f : Bool) : (flagByte f).toNat = f.toNat := by
  cases f <;> rfl

/-- The difference of two bytes is reduced modulo 256 (41_load_alu.md R128). -/
@[simp] theorem toNat_subByte (a b : Byte) :
    (subByte a b).toNat = (a.toNat + 256 - b.toNat) % 256 := by
  rw [subByte, BitVec.toNat_ofInt]
  omega

theorem shrByte_eq (a : Byte) : shrByte a = a >>> 1 := by
  apply BitVec.eq_of_toNat_eq
  rw [shrByte, BitVec.toNat_ofNat, BitVec.toNat_ushiftRight, Nat.shiftRight_eq_div_pow]
  omega

theorem shlByte_eq (a : Byte) : shlByte a = a <<< 1 := by
  apply BitVec.eq_of_toNat_eq
  rw [shlByte, BitVec.toNat_ofNat, BitVec.toNat_shiftLeft, Nat.shiftLeft_eq]

/-- The bit that a right shift drops is the lowest (41_load_alu.md R129). -/
theorem toNat_shrOut (a : Byte) : (shrOut a).toNat = a.toNat % 2 := by
  rw [shrOut, BitVec.getLsbD, Nat.testBit_zero]
  obtain h | h := Nat.mod_two_eq_zero_or_one a.toNat <;> simp [h]

/-- The bit that a left shift drops is the highest (41_load_alu.md R131). -/
theorem toNat_shlOut (a : Byte) : (shlOut a).toNat = a.toNat / 128 := by
  rw [shlOut, BitVec.getLsbD, Nat.testBit_eq_decide_div_mod_eq]
  have hlt : a.toNat / 128 < 2 := by omega
  have h := Nat.mod_eq_of_lt hlt
  obtain h0 | h1 : a.toNat / 128 = 0 ∨ a.toNat / 128 = 1 := by omega
  · simp [h0]
  · simp [h1]

/-- The index sum is reduced modulo 65536 (42_index_memory.md R141). -/
@[simp] theorem toNat_addIndex (i : Word) (b : Byte) :
    (addIndex i b).toNat = (i.toNat + b.toNat) % 65536 := BitVec.toNat_ofNat _ _

/-! ## The byte that RND reads (log 3) -/

/-- A presented byte is read once. -/
theorem rndConsumed_presented {s : State} {b : Byte} (h : s.rndIn = some b) :
    s.rndByte = b ∧ s.rndConsumed = { s with rndIn := none } := by
  simp [State.rndByte, State.rndConsumed, h]

/-- With no byte presented the next draw is read, and the draw after it is another one. -/
theorem rndConsumed_drawn {s : State} (h : s.rndIn = none) :
    s.rndByte = Config.rndByte s.rndDraws ∧
      s.rndConsumed = { s with rndIn := none, rndDraws := s.rndDraws + 1 } := by
  simp [State.rndByte, State.rndConsumed, h]

theorem exec_rnd (x : RegIdx) (nn : Byte) (s : State) :
    exec (.rnd x nn) s = .next (s.rndConsumed.advance.setReg x (s.rndByte &&& nn)) := rfl

/-! ## The statements -/

/-- What both subtractions do, of any minuend and subtrahend (41_load_alu.md R128, R130). -/
theorem difference_then_noBorrow (s : State) (x : RegIdx) (a b : Byte) :
    ∃ t, (.next ((s.advance.setReg x (subByte a b)).setFlag (subNoBorrow a b)) : Result) = .next t ∧
      t = { s with pc := s.pc + 2#16, v := t.v } ∧
      (x ≠ 15 → (t.reg x).toNat = (a.toNat + 256 - b.toNat) % 256) ∧
      t.reg 15 = (if a.toNat ≥ b.toNat then 1#8 else 0#8) ∧
      ∀ r, r ≠ x → r ≠ 15 → t.reg r = s.reg r := by
  refine ⟨_, rfl, advance_setReg_setFlag_frame s x _ _, fun h => ?difference, ?noBorrow,
    fun r => reg_result_other s x _ _⟩
  case difference => rw [reg_result s _ _ h, toNat_subByte]
  case noBorrow => rw [reg_setFlag_vf, subNoBorrow, flagByte_decide]

/-- Settles O20: each of the four is the advance and one write of Vx. -/
theorem copyAndLogicWriteVxOnly : Obligations.CopyAndLogicWriteVxOnly := by
  intro x y s
  have written (b : Byte) : (s.advance.setReg x b).reg x = b := reg_setReg_same s.advance x b
  have others (b : Byte) (r : RegIdx) (h : r ≠ x) : (s.advance.setReg x b).reg r = s.reg r :=
    reg_setReg_other s.advance b h
  exact ⟨⟨_, rfl, rfl, written _, others _⟩, ⟨_, rfl, rfl, written _, others _⟩,
    ⟨_, rfl, rfl, written _, others _⟩, ⟨_, rfl, rfl, written _, others _⟩⟩

/-- Settles O21: the wrapped sum, and then the carry. -/
theorem addRegistersSetsCarry : Obligations.AddRegistersSetsCarry := by
  intro x y s
  refine ⟨_, rfl, advance_setReg_setFlag_frame s x _ _, fun h => ?sum, ?carry,
    fun r => reg_result_other s x _ _⟩
  case sum => rw [reg_result s _ _ h, toNat_addByte]
  case carry => rw [reg_setFlag_vf, addCarry, flagByte_decide]

/-- Settles O22: the difference with Vx the minuend. -/
theorem subRegistersSetsNoBorrow : Obligations.SubRegistersSetsNoBorrow :=
  fun x y s => difference_then_noBorrow s x (s.reg x) (s.reg y)

/-- Settles O23: the difference with Vy the minuend. -/
theorem subnRegistersSetsNoBorrow : Obligations.SubnRegistersSetsNoBorrow :=
  fun x y s => difference_then_noBorrow s x (s.reg y) (s.reg x)

/-- Settles O24: each shift writes Vx shifted by 1, and then the bit that left it. -/
theorem shiftsCaptureTheBitShiftedOut : Obligations.ShiftsCaptureTheBitShiftedOut := by
  intro x y s
  refine ⟨⟨_, rfl, advance_setReg_setFlag_frame s x _ _, fun h => ?right, ?lowest,
      fun r => reg_result_other s x _ _⟩,
    ⟨_, rfl, advance_setReg_setFlag_frame s x _ _, fun h => ?left, ?highest,
      fun r => reg_result_other s x _ _⟩⟩
  case right => rw [reg_result s _ _ h, shrByte_eq]
  case lowest => rw [reg_setFlag_vf, toNat_flagByte, toNat_shrOut]
  case left => rw [reg_result s _ _ h, shlByte_eq]
  case highest => rw [reg_setFlag_vf, toNat_flagByte, toNat_shlOut]

/-- Settles O25: the byte read is the presented one or the next draw, and no other source is left.
-/
theorem rndMasksTheByteItReads : Obligations.RndMasksTheByteItReads := by
  intro x nn s
  refine ⟨_, exec_rnd x nn s, ?_⟩
  cases hin : s.rndIn with
  | some b =>
    obtain ⟨hbyte, hcons⟩ := rndConsumed_presented hin
    rw [hbyte, hcons]
    refine ⟨rfl, ?_, by simp, fun r h => reg_setReg_other _ _ h⟩
    rintro b' ⟨⟩
    exact ⟨reg_setReg_same _ x _, rfl⟩
  | none =>
    obtain ⟨hbyte, hcons⟩ := rndConsumed_drawn hin
    rw [hbyte, hcons]
    exact ⟨rfl, by simp, fun _ => ⟨reg_setReg_same _ x _, rfl⟩, fun r h => reg_setReg_other _ _ h⟩

/-- Settles O27: the wrapped index sum of the old Vx, and then the carry out of 16 bits. -/
theorem addIndexSetsCarryOutOf16Bits : Obligations.AddIndexSetsCarryOutOf16Bits := by
  intro x s
  refine ⟨_, rfl, rfl, toNat_addIndex s.i (s.reg x), ?carry, fun r h => reg_setFlag_other _ _ h⟩
  case carry => rw [reg_setFlag_vf, indexCarry, flagByte_decide]

/-- Settles O40: the advance and one write, of Vx or of a timer. -/
theorem timerInstructionsCopyOneCell : Obligations.TimerInstructionsCopyOneCell := by
  intro x s
  exact ⟨⟨_, rfl, advance_setReg_frame s x _, reg_setReg_same _ x _,
    fun r h => reg_setReg_other s.advance _ h⟩, rfl, rfl⟩

end Sys2Proof.Machine
end

section
/-! SUPPORT. STEP (40_control_flow.md R100): one equation for each thing that a step can do, the
steps that follow from them, and the statements about them. -/

namespace Sys2Proof.Machine

variable {s : State}

/-! ## The four steps -/

/-- With a fault latched nothing happens (60_exceptions.md R202). -/
theorem step_latched (h : s.fault ≠ none) : step s = .next s := by
  unfold step
  split
  · rfl
  · contradiction

/-- A fetch out of range (60_exceptions.md R205). -/
theorem step_fetchFault (h : s.fault = none) (hpc : 4094 < s.pc.toNat) :
    step s = .next { s with fault := some ⟨.memOutOfBounds, s.pc, max s.pc.toNat 4096⟩ } := by
  have hfetch : ¬ s.fetchOk = true := by rw [fetchOk_iff]; omega
  simp only [step, h, hfetch]
  exact raise_ok _ _ h

/-- An instruction (40_control_flow.md R100). -/
theorem step_instr {i : Instr} {rest : List Byte} (h : s.fault = none) (hpc : s.pc.toNat ≤ 4094)
    (hd : decode s.fetchBytes = .ok (i, rest)) : step s = exec i s := by
  simp only [step, h, fetchOk_iff.2 hpc, hd, if_true]

/-- A decode miss (40_control_flow.md R101). -/
theorem step_miss {e : Reject} (h : s.fault = none) (hpc : s.pc.toNat ≤ 4094)
    (hd : decode s.fetchBytes = .error e) : step s = .next s.advance := by
  simp only [step, h, fetchOk_iff.2 hpc, hd, if_true, execDecodeMiss]

/-! ## The fetched word -/

/-- The two bytes fetched are decoded as one word (20_memory.md R56). -/
theorem decode_fetchBytes (s : State) : decode s.fetchBytes =
    (decodeWord (wordOfBytes (s.read s.pc.toNat) (s.read (s.pc.toNat + 1)))).map fun i => (i, []) :=
  rfl

/-- The byte at the lower address is the high one (20_memory.md R56). -/
theorem toNat_wordOfBytes (hi lo : Byte) :
    (wordOfBytes hi lo).toNat = 256 * hi.toNat + lo.toNat := by
  rw [wordOfBytes, BitVec.toNat_append, Nat.shiftLeft_eq, Nat.mul_comm,
    ← Nat.two_pow_add_eq_or_of_lt lo.isLt]

/-- The zero word is a decode miss (30_encoding.md R76). -/
theorem step_zeroWord (h : s.fault = none) (hpc : s.pc.toNat ≤ 4094)
    (hhi : s.read s.pc.toNat = 0#8) (hlo : s.read (s.pc.toNat + 1) = 0#8) :
    step s = .next s.advance := by
  refine step_miss (e := .decodeMiss 0#16) h hpc ?_
  rw [decode_fetchBytes, hhi, hlo]
  rfl

/-- A run of one step more: the first step, and the run of the rest. -/
theorem run_succ (M : Host.Core) {k : Nat} {s t : M.State} (h : M.step s = .next t) :
    M.run (k + 1) s = M.run k t := by
  rw [Host.Core.run, h]

/-! ## The statements -/

/-- Settles O7: the word decoded is the two bytes, high byte first. -/
theorem fetchIsBigEndianAtAnyPc : Obligations.FetchIsBigEndianAtAnyPc :=
  fun s => ⟨_, toNat_wordOfBytes _ _, decode_fetchBytes s⟩

/-- Settles O8: the step of a decoded instruction. -/
theorem stepRunsTheDecodedInstruction : Obligations.StepRunsTheDecodedInstruction := by
  intro s i h hpc hd
  exact step_instr h (by omega) hd

/-- Settles O9: the step of a decode miss. -/
theorem decodeMissOnlyAdvancesPc : Obligations.DecodeMissOnlyAdvancesPc := by
  intro s h hpc hmiss
  cases hw : decodeWord (wordOfBytes (s.read s.pc.toNat) (s.read (s.pc.toNat + 1))) with
  | ok i => exact absurd hw (hmiss i)
  | error e => exact step_miss h (by omega) (by rw [decode_fetchBytes, hw]; rfl)

/-- Settles O10: `pc` itself is the lowest address above 4095, or, with `pc` at 4095, the one after
it. -/
theorem fetchOutOfRangeLatchesFault : Obligations.FetchOutOfRangeLatchesFault := by
  intro s h hpc
  have hinfo : max s.pc.toNat 4096 = if s.pc.toNat > 4095 then s.pc.toNat else s.pc.toNat + 1 := by
    split <;> omega
  rw [step_fetchFault h (by omega), hinfo]

/-- Settles O11: the first thing a step looks at is the latch. -/
theorem stepWithFaultLatchedChangesNothing : Obligations.StepWithFaultLatchedChangesNothing :=
  fun _ => step_latched

/-- Settles O55: the jump writes the `pc` that is there. -/
theorem terminatedProgramIsAFixedPoint : Obligations.TerminatedProgramIsAFixedPoint := by
  rintro s ⟨hok, hfetch, nnn, rest, hd, htarget⟩
  rw [step_instr hok (fetchOk_iff.1 hfetch) hd, exec_jp, htarget]

/-- Settles O56: by induction on the steps, each of which advances over one zero word and leaves a
state with one word fewer to walk. -/
theorem zeroedMemoryIsWalkedAsNoOps : Obligations.ZeroedMemoryIsWalkedAsNoOps := by
  intro k
  induction k with
  | zero => intro s _ _ _; simp [Host.Core.run]
  | succ k ih =>
    intro s hok hpc hzero
    have hstep : step s = .next s.advance :=
      step_zeroWord hok (by omega) (hzero _ (by omega) (by omega)) (hzero _ (by omega) (by omega))
    have hpc' : s.advance.pc.toNat = s.pc.toNat + 2 := by
      rw [State.advance_pc]; bv_omega
    have hrest := ih s.advance hok (by omega) fun a _ _ => hzero a (by omega) (by omega)
    have hsum : s.pc + 2#16 + BitVec.ofNat 16 (2 * k) = s.pc + BitVec.ofNat 16 (2 * (k + 1)) := by
      rw [BitVec.add_assoc, ← BitVec.ofNat_add]; congr 2; omega
    calc Host.Core.run core (k + 1) s
        = Host.Core.run core k s.advance := run_succ core hstep
      _ = .next { s with pc := s.pc + 2#16 + BitVec.ofNat 16 (2 * k) } := hrest
      _ = _ := by rw [hsum]

end Sys2Proof.Machine
end

section
/-! SUPPORT. Calls and keys: RET, CALL, SKP, SKNP and LD Vx,K, one equation for each of their
outcomes, and the statements about them. -/

namespace Sys2Proof.Machine

variable (s : State)

/-! ## RET and CALL (40_control_flow.md R102, R104) -/

theorem exec_ret_pop (h : s.sp.val ≠ 0) :
    exec .ret s = .next { s with
      sp := ⟨s.sp.val - 1, by omega⟩, pc := s.stack[s.sp.val - 1]'(by omega) } := by
  simp only [exec, execRet, pop_some h]
  rfl

theorem exec_ret_underflow (h : s.sp.val = 0) : exec .ret s = raise .stackUnderflow 0 s := by
  simp only [exec, execRet, pop_empty h]

/-- The state in which a called routine begins: the return address is pushed and `pc` is the target.
-/
def State.called (s : State) (a : Word) (h : s.sp.val < 16) : State :=
  { s with
    stack := s.stack.set s.sp.val (s.pc + 2#16) h, sp := ⟨s.sp.val + 1, by omega⟩, pc := a }

theorem exec_call_push (nnn : BitVec 12) (h : s.sp.val < 16) :
    exec (.call nnn) s = .next (s.called (zext16 nnn) h) := by
  simp only [exec, execCall, push_room _ h]
  rfl

/-- A RET at once takes back all of a CALL but the stack entry. -/
theorem exec_ret_called (a : Word) (h : s.sp.val < 16) :
    exec .ret (s.called a h) =
      .next { s with stack := s.stack.set s.sp.val (s.pc + 2#16) h, pc := s.pc + 2#16 } := by
  rw [exec_ret_pop (s.called a h) (Nat.succ_ne_zero _)]
  simp [State.called]

theorem exec_call_overflow (nnn : BitVec 12) (h : s.sp.val = 16) :
    exec (.call nnn) s = raise .stackOverflow 0 s := by
  simp only [exec, execCall, push_full _ h]

/-! ## SKP and SKNP (44_keys_timers.md R161, R162) -/

theorem exec_skp_key {x : RegIdx} {k : KeyIdx} (h : (s.reg x).toNat = k.val) :
    exec (.skp x) s = .next (s.advance.skipIf (s.key k)) := by
  have hk : keyOperand (s.reg x) = some k := by
    rw [keyOperand_small (by omega)]; exact congrArg some (Fin.ext h)
  simp only [exec, execSkp, hk]

theorem exec_sknp_key {x : RegIdx} {k : KeyIdx} (h : (s.reg x).toNat = k.val) :
    exec (.sknp x) s = .next (s.advance.skipIf (!s.key k)) := by
  have hk : keyOperand (s.reg x) = some k := by
    rw [keyOperand_small (by omega)]; exact congrArg some (Fin.ext h)
  simp only [exec, execSknp, hk]

theorem exec_skp_noKey {x : RegIdx} (h : 15 < (s.reg x).toNat) :
    exec (.skp x) s = raise .keyIndexOutOfRange (s.reg x).toNat s := by
  simp only [exec, execSkp, keyOperand_large h]

theorem exec_sknp_noKey {x : RegIdx} (h : 15 < (s.reg x).toNat) :
    exec (.sknp x) s = raise .keyIndexOutOfRange (s.reg x).toNat s := by
  simp only [exec, execSknp, keyOperand_large h]

/-! ## LD Vx,K (44_keys_timers.md R163) -/

/-- With no key down `pc` goes back, so nothing has changed. -/
theorem exec_ldVxK_hold (x : RegIdx) (h : s.lowestKey = none) : exec (.ldVxK x) s = .next s := by
  simp only [exec, execLdVxK, h]
  rfl

theorem exec_ldVxK_take (x : RegIdx) {k : KeyIdx} (h : s.lowestKey = some k) :
    exec (.ldVxK x) s = .next (s.advance.setReg x (BitVec.ofNat 8 k.val)) := by
  simp only [exec, execLdVxK, h]

/-- A key number fits a register. -/
theorem toNat_keyByte (k : KeyIdx) : (BitVec.ofNat 8 k.val).toNat = k.val := by
  rw [BitVec.toNat_ofNat]; omega

/-! ## The statements -/

/-- Settles O14: a pop with an entry on the stack, and the fault with none. -/
theorem retPopsOrUnderflows : Obligations.RetPopsOrUnderflows := by
  intro s
  refine ⟨fun h => exec_ret_pop s (by omega), fun h hok => ?_⟩
  rw [exec_ret_underflow s (by simp [h]), raise_ok _ _ hok]

/-- Settles O16: a push with room on the stack, and the fault with none. -/
theorem callPushesOrOverflows : Obligations.CallPushesOrOverflows := by
  intro nnn s
  refine ⟨fun h => ⟨_, exec_call_push s nnn h, rfl, toNat_zext16 nnn, rfl, ?pushed,
    fun j hj => ?kept⟩, fun h hok => ?overflow⟩
  case pushed => simp [State.called]
  case kept => simp [State.called, hj.symm]
  case overflow => rw [exec_call_overflow s nnn (by simp [h]), raise_ok _ _ hok]

/-- Settles O18: the RET pops the entry that the CALL pushed, and takes `sp` back. -/
theorem callThenRetRoundTrips : Obligations.CallThenRetRoundTrips := by
  intro s nnn hok hpc hroom hcall hnnn hret
  have hpc' : (s.called (zext16 nnn) hroom).pc.toNat = nnn.toNat := toNat_zext16 nnn
  have hret' : decode (s.called (zext16 nnn) hroom).fetchBytes = .ok (.ret, []) := by
    rw [fetchBytes_eq, hpc']; exact hret
  have hfirst : step s = .next (s.called (zext16 nnn) hroom) :=
    (step_instr hok (by omega) hcall).trans (exec_call_push s nnn hroom)
  have hsecond : step (s.called (zext16 nnn) hroom) = exec .ret (s.called (zext16 nnn) hroom) :=
    step_instr hok (by omega) hret'
  refine ⟨_, _, hfirst, hsecond.trans (exec_ret_called s _ hroom), rfl, fun j hj => ?kept⟩
  case kept => simp [hj.symm]

/-- Settles O38: a skip on the level of the key, and the fault where Vx is no key number. -/
theorem keySkipsFollowTheLatch : Obligations.KeySkipsFollowTheLatch := by
  intro x s
  refine ⟨fun k hk => ⟨?skp, ?sknp⟩, fun hlarge hok => ⟨?skpFault, ?sknpFault⟩⟩
  case skp => rw [exec_skp_key s hk, advance_skipIf]
  case sknp => rw [exec_sknp_key s hk, advance_skipIf]; cases s.key k <;> rfl
  case skpFault => rw [exec_skp_noKey s hlarge, raise_ok _ _ hok]
  case sknpFault => rw [exec_sknp_noKey s hlarge, raise_ok _ _ hok]

/-- Settles O39: the lowest key is taken, or there is none and nothing changes. -/
theorem keyWaitTakesLowestKeyOrHolds : Obligations.KeyWaitTakesLowestKeyOrHolds := by
  intro x s
  refine ⟨fun k hk hlow => ?_, fun hup => exec_ldVxK_hold s x (lowestKey_none.2 hup)⟩
  refine ⟨_, exec_ldVxK_take s x (lowestKey_some.2 ⟨hk, hlow⟩), advance_setReg_frame s x _, ?_,
    fun r h => reg_setReg_other s.advance _ h⟩
  rw [reg_setReg_same, toNat_keyByte]

end Sys2Proof.Machine
end

section
/-! SUPPORT. Stores and loads: what a store after the advance changes and leaves, the range fault of
a memory instruction, and the statements about memory. -/

namespace Sys2Proof.Machine

variable (s : State)

/-! ## The range fault -/

/-- A memory instruction out of range with the latch empty (20_memory.md R65). -/
theorem guardRange_fault {a n : Nat} {t : State} (hn : n ≠ 0) (h : 4096 < a + n)
    (hok : s.fault = none) : guardRange a n s t =
      .next { s with fault := some ⟨.memOutOfBounds, s.pc, max a 4096⟩ } := by
  rw [guardRange_outside hn h, raise_ok _ _ hok]

/-! ## The meanings, in range and out of range -/

theorem exec_ldB_inside (x : RegIdx) (h : s.i.toNat + 2 ≤ 4095) : exec (.ldB x) s =
    .next (s.advance.storeBytes s.i.toNat (decimalDigits (s.reg x))) :=
  guardRange_inside (.inr (Nat.succ_le_succ h))

theorem exec_ldMemVx_inside (x : RegIdx) (h : s.i.toNat + x.val ≤ 4095) : exec (.ldMemVx x) s =
    .next (s.advance.storeBytes s.i.toNat (s.regsUpTo x)) :=
  guardRange_inside (.inr (Nat.succ_le_succ h))

theorem exec_ldVxMem_inside (x : RegIdx) (h : s.i.toNat + x.val ≤ 4095) : exec (.ldVxMem x) s =
    .next (s.advance.loadRegs x s.i.toNat) :=
  guardRange_inside (.inr (Nat.succ_le_succ h))

theorem exec_ldB_outside (x : RegIdx) (h : 4095 < s.i.toNat + 2) (hok : s.fault = none) :
    exec (.ldB x) s = .next { s with fault := some ⟨.memOutOfBounds, s.pc, max s.i.toNat 4096⟩ } :=
  guardRange_fault s (Nat.succ_ne_zero _) (Nat.succ_lt_succ h) hok

theorem exec_ldMemVx_outside (x : RegIdx) (h : 4095 < s.i.toNat + x.val) (hok : s.fault = none) :
    exec (.ldMemVx x) s =
      .next { s with fault := some ⟨.memOutOfBounds, s.pc, max s.i.toNat 4096⟩ } :=
  guardRange_fault s (Nat.succ_ne_zero _) (Nat.succ_lt_succ h) hok

theorem exec_ldVxMem_outside (x : RegIdx) (h : 4095 < s.i.toNat + x.val) (hok : s.fault = none) :
    exec (.ldVxMem x) s =
      .next { s with fault := some ⟨.memOutOfBounds, s.pc, max s.i.toNat 4096⟩ } :=
  guardRange_fault s (Nat.succ_ne_zero _) (Nat.succ_lt_succ h) hok

/-! ## What the stores write -/

/-- The frame of the instructions that store: every cell but `pc` and memory is kept. -/
theorem advance_storeBytes_frame (a : Nat) (bs : List Byte) : s.advance.storeBytes a bs =
    { s with pc := s.pc + 2#16, mem := (s.advance.storeBytes a bs).mem } := rfl

/-- The three digits read back (42_index_memory.md R143). -/
theorem read_decimalDigits {a : Nat} (b : Byte) (hm : s.memWf = true) (h : a + 2 ≤ 4095) :
    ((s.storeBytes a (decimalDigits b)).read a).toNat = b.toNat / 100 ∧
    ((s.storeBytes a (decimalDigits b)).read (a + 1)).toNat = b.toNat / 10 % 10 ∧
    ((s.storeBytes a (decimalDigits b)).read (a + 2)).toNat = b.toNat % 10 := by
  have digit (k : Nat) (hk : k < 3) : (s.storeBytes a (decimalDigits b)).read (a + k) =
      (decimalDigits b)[k] :=
    read_storeBytes_inside hm (by rw [length_decimalDigits]; omega) hk
  have hundreds := digit 0 (by decide)
  rw [Nat.add_zero] at hundreds
  rw [hundreds, digit 1 (by decide), digit 2 (by decide)]
  simp only [decimalDigits, List.getElem_cons_zero, List.getElem_cons_succ, BitVec.toNat_ofNat]
  omega

/-- Register j of a dump reads back at its place (42_index_memory.md R144). -/
theorem read_regsUpTo {a : Nat} {x j : RegIdx} (hm : s.memWf = true) (h : a + x.val ≤ 4095)
    (hj : j ≤ x) : (s.storeBytes a (s.regsUpTo x)).read (a + j.val) = s.reg j := by
  have hlt : j.val < (s.regsUpTo x).length := by
    rw [length_regsUpTo]; exact Nat.lt_succ_of_le hj
  rw [read_storeBytes_inside hm (by rw [length_regsUpTo]; omega) hlt, getElem_regsUpTo]

/-! ## The statements -/

/-- Settles O28: the store of three digits, in range or not. -/
theorem decimalStoreWritesThreeDigits : Obligations.DecimalStoreWritesThreeDigits := by
  intro x s
  refine ⟨fun h => ⟨_, exec_ldB_inside s x h, advance_storeBytes_frame s _ _,
    fun hm => read_decimalDigits s.advance _ hm h, fun a ha => ?kept⟩, exec_ldB_outside s x⟩
  case kept =>
    rw [read_storeBytes_outside (by rw [length_decimalDigits]; omega), State.read_advance]

/-- Settles O29: the store of the registers up to Vx, in range or not. -/
theorem registerDumpStoresV0ToVx : Obligations.RegisterDumpStoresV0ToVx := by
  intro x s
  refine ⟨fun h => ⟨_, exec_ldMemVx_inside s x h, advance_storeBytes_frame s _ _,
    fun hm j => read_regsUpTo s.advance hm h, fun a ha => ?kept⟩, exec_ldMemVx_outside s x⟩
  case kept => rw [read_storeBytes_outside (by rw [length_regsUpTo]; omega), State.read_advance]

/-- Settles O30: the load of the registers up to Vx, in range or not. -/
theorem registerLoadReadsV0ToVx : Obligations.RegisterLoadReadsV0ToVx := by
  intro x s
  refine ⟨fun h => ⟨_, exec_ldVxMem_inside s x h, rfl, fun j hj => ?loaded, fun j hj => ?kept⟩,
    exec_ldVxMem_outside s x⟩
  case loaded => rw [State.reg_loadRegs, if_pos hj, State.read_advance]
  case kept => rw [State.reg_loadRegs, if_neg (Fin.not_le.2 hj), State.reg_advance]

/-- Settles O31: a canonical memory after a write, byte by byte. -/
theorem memoryReadsTheLastWrite : Obligations.MemoryReadsTheLastWrite := by
  intro font m a c b hm ha
  refine ⟨Memory.wf_write a b hm (Nat.lt_succ_of_le ha), ?_⟩
  rw [Memory.read_write hm]
  simp only [eq_comm]

/-- Settles O32: the two bytes of the fetch are two of the bytes stored. -/
theorem storedBytesAreFetchedAtOnce : Obligations.StoredBytesAreFetchedAtOnce := by
  intro s x j k hm hrange hk hkx
  have hjx : j ≤ x := Fin.le_def.2 (by have := Fin.le_def.1 hkx; omega)
  have hpc : (s.i + BitVec.ofNat 16 j.val).toNat = s.i.toNat + j.val := by
    have := Fin.le_def.1 hjx
    rw [BitVec.toNat_add, BitVec.toNat_ofNat]; omega
  have stored (r : RegIdx) (hr : r ≤ x) :
      (s.advance.storeBytes s.i.toNat (s.regsUpTo x)).read (s.i.toNat + r.val) = s.reg r :=
    read_regsUpTo s.advance hm hrange hr
  refine ⟨_, exec_ldMemVx_inside s x hrange, ?_⟩
  rw [← stored j hjx, ← stored k hkx, fetchBytes_eq, hpc, hk]
  rfl

end Sys2Proof.Machine
end

section
/-! SUPPORT. The display: DRW in range and out of range, the cells that it plots as the closed form
of the spec, the pixel buffer, and the statements about them. -/

namespace Sys2Proof.Machine

open Sys2Proof.Statement

variable (s : State) (x y : RegIdx) (n : BitVec 4)

/-! ## DRW (43_display.md R152) -/

theorem exec_drw_inside (h : n = 0#4 ∨ s.i.toNat + n.toNat ≤ 4096) : exec (.drw x y n) s =
    .next ((s.advance.setPixels (s.pixels.draw (s.drwCells x y n)).1).setFlag
      (s.pixels.draw (s.drwCells x y n)).2) :=
  guardRange_inside (h.imp_left fun hn => by rw [hn]; rfl)

theorem exec_drw_outside (hn : n ≠ 0#4) (h : 4096 < s.i.toNat + n.toNat) (hok : s.fault = none) :
    exec (.drw x y n) s =
      .next { s with fault := some ⟨.memOutOfBounds, s.pc, max s.i.toNat 4096⟩ } :=
  guardRange_fault s (fun h0 => hn (BitVec.eq_of_toNat_eq h0)) h hok

/-- The cells plotted are those of the closed form (43_display.md R152 to R154). -/
theorem mem_drwCells {s : State} {x y : RegIdx} {n : BitVec 4} {p : PixelIdx} :
    p ∈ s.drwCells x y n ↔ SpriteBit s x y n p := by
  simp only [State.drwCells, mem_spriteCells, SpriteBit, spriteCell, length_loadBytes,
    getElem_loadBytes, State.base, Prod.ext_iff, Fin.ext_iff, Nat.zero_add]
  refine exists_congr fun r => exists_congr fun c => ?_
  constructor
  · rintro ⟨hr, hc, hbit, hrow, hcol⟩
    exact ⟨hr, hc, hrow, hcol, hbit⟩
  · rintro ⟨hr, hc, hrow, hcol, hbit⟩
    exact ⟨hr, hc, hbit, hrow, hcol⟩

/-- A cell of the sprite is toggled (43_display.md R152). -/
theorem get_draw_sprite (d : Display) {p : PixelIdx} (h : SpriteBit s x y n p) :
    (d.draw (s.drwCells x y n)).1.get p = !(d.get p) := by
  rw [Display.get_draw_nodup (nodup_drwCells s x y n), decide_eq_true (mem_drwCells.2 h),
    Bool.xor_true]

/-- Every other cell is kept. -/
theorem get_draw_other (d : Display) {p : PixelIdx} (h : ¬ SpriteBit s x y n p) :
    (d.draw (s.drwCells x y n)).1.get p = d.get p := by
  rw [Display.get_draw_nodup (nodup_drwCells s x y n), decide_eq_false (mt mem_drwCells.1 h),
    Bool.xor_false]

/-- The collision flag is 1 where some cell of the sprite was set (43_display.md R152). -/
theorem drawFlag_one {d : Display} (h : ∃ p, SpriteBit s x y n p ∧ d.get p = true) :
    flagByte (d.draw (s.drwCells x y n)).2 = 1#8 := by
  obtain ⟨p, hp, hset⟩ := h
  rw [Display.draw_snd (nodup_drwCells s x y n),
    List.any_eq_true.2 ⟨p, mem_drwCells.2 hp, hset⟩]
  rfl

/-- The collision flag is 0 where none was. -/
theorem drawFlag_zero {d : Display} (h : ∀ p, SpriteBit s x y n p → d.get p = false) :
    flagByte (d.draw (s.drwCells x y n)).2 = 0#8 := by
  have hnone : (s.drwCells x y n).any d.get = false :=
    List.any_eq_false.2 fun p hp => by simp [h p (mem_drwCells.1 hp)]
  rw [Display.draw_snd (nodup_drwCells s x y n), hnone]
  rfl

/-- The cells plotted depend on the coordinates, `I` and memory alone. -/
theorem drwCells_congr {s t : State} {x y : RegIdx} (n : BitVec 4) (hx : t.reg x = s.reg x)
    (hy : t.reg y = s.reg y) (hi : t.i = s.i) (hm : t.mem = s.mem) (hf : t.font = s.font) :
    t.drwCells x y n = s.drwCells x y n := by
  simp only [State.drwCells, State.loadBytes, State.base, hx, hy, hi, hm, hf]

/-- Settles O34: the cells drawn are those of the closed form, each once. -/
theorem drwTogglesExactlyTheSpriteCells : Obligations.DrwTogglesExactlyTheSpriteCells := by
  intro x y n s hrange
  refine ⟨_, exec_drw_inside s x y n hrange, rfl, fun p => get_draw_sprite s x y n s.pixels,
    fun p => get_draw_other s x y n s.pixels, fun hset => ?collision, fun hclear => ?noCollision,
    fun r hr => reg_setFlag_other _ _ hr⟩
  case collision => rw [reg_setFlag_vf, drawFlag_one s x y n hset]
  case noCollision => rw [reg_setFlag_vf, drawFlag_zero s x y n hclear]

/-- Settles O35: the range fault of a sprite of at least one byte. -/
theorem drwOutOfRangeLatchesFault : Obligations.DrwOutOfRangeLatchesFault := by
  intro x y n s hn h hok
  exact exec_drw_outside s x y n hn (by omega) hok

/-- Settles O36: with the coordinates kept both draws plot the same cells, and the second meets each
of them as the first left it. -/
theorem drawingTwiceRestoresTheDisplay : Obligations.DrawingTwiceRestoresTheDisplay := by
  intro x y n s t u hrange hfirst hx hy hsecond
  have ht := Host.Outcome.next.inj (hfirst.symm.trans (exec_drw_inside s x y n hrange))
  have hi : t.i = s.i := by rw [ht]; rfl
  have hpixels : t.pixels = (s.pixels.draw (s.drwCells x y n)).1 := by rw [ht]; rfl
  have hcells : t.drwCells x y n = s.drwCells x y n :=
    drwCells_congr n hx hy hi (by rw [ht]; rfl) (by rw [ht]; rfl)
  have hu := Host.Outcome.next.inj
    (hsecond.symm.trans (exec_drw_inside t x y n (by rw [hi]; exact hrange)))
  rw [hcells, hpixels] at hu
  have toggled {p : PixelIdx} := get_draw_sprite s x y n s.pixels (p := p)
  rw [hu]
  refine ⟨Display.draw_draw _ _, ?someClear, fun hset => ?allSet⟩
  case someClear =>
    rintro ⟨p, hp, hclear⟩
    rw [reg_setFlag_vf]
    exact drawFlag_one s x y n ⟨p, hp, by rw [toggled hp, hclear]; rfl⟩
  case allSet =>
    rw [reg_setFlag_vf]
    exact drawFlag_zero s x y n fun p hp => by rw [toggled hp, hset p hp]; rfl

/-! ## The pixel buffer (45_external_commands.md R174) -/

/-- Rows of 64 cells, one after the other: cell `c` of row `r` is element `r * 64 + c`. -/
theorem getElem?_flatMap_rows (rows : List (Vector Bool 64)) (r : Nat) (c : Fin 64) :
    (rows.flatMap Vector.toList)[r * 64 + c.val]? = rows[r]?.map fun row => row[c] := by
  induction rows generalizing r with
  | nil => simp
  | cons row rows ih =>
    cases r with
    | zero => simp [List.getElem?_append]
    | succ r =>
      have hlen : row.toList.length = 64 := Vector.length_toList
      rw [List.flatMap_cons, List.getElem?_append_right (by omega), List.getElem?_cons_succ, ← ih r]
      congr 1
      omega

/-- Settles O37: the buffer is the rows one after the other. -/
theorem pixelBufferIsRowMajor : Obligations.PixelBufferIsRowMajor := by
  intro s
  refine ⟨rfl, rfl, ?size, fun r c => ?cell, rfl⟩
  case size => simp [State.pixelBuffer, List.length_flatMap]
  case cell =>
    rw [State.pixelBuffer, getElem?_flatMap_rows]
    simp [Display.get]

end Sys2Proof.Machine
end

section
/-! SUPPORT. Every instruction at once: the fault that it raises in a state, what it does where it
raises none, and that `exec` is those two and nothing else. What holds of all instructions follows
from them. -/

namespace Sys2Proof.Machine

open Sys2Proof.Statement

/-! ## The fault and the effect of an instruction -/

/-- The range fault of `n` bytes at `a` (60_exceptions.md R205). -/
def rangeFault (a n : Nat) : Option (FaultKind × Nat) :=
  if accessOk a n then none else some (.memOutOfBounds, lowestOutside a)

/-- The key fault of a register value (60_exceptions.md R206). -/
def keyFault (b : Byte) : Option (FaultKind × Nat) :=
  if 15 < b.toNat then some (.keyIndexOutOfRange, b.toNat) else none

/-- The fault that an instruction raises in a state, with the offending value (60_exceptions.md
R200). -/
def faultOf (i : Instr) (s : State) : Option (FaultKind × Nat) :=
  match i with
  | .ret => if s.sp.val = 0 then some (.stackUnderflow, 0) else none
  | .call _ => if s.sp.val = 16 then some (.stackOverflow, 0) else none
  | .drw _ _ n => rangeFault s.base n.toNat
  | .ldB _ => rangeFault s.base 3
  | .ldMemVx x | .ldVxMem x => rangeFault s.base (x.val + 1)
  | .skp x | .sknp x => keyFault (s.reg x)
  | _ => none

/-- What an instruction does in a state in which it raises no fault. -/
def effect (i : Instr) (s : State) : State :=
  match i with
  | .cls => s.advance.setPixels Display.clear
  | .ret => { s with
      sp := ⟨s.sp.val - 1, by omega⟩, pc := s.stack.toList.getD (s.sp.val - 1) 0#16 }
  | .jp nnn => s.setPc (zext16 nnn)
  | .call nnn => { s with
      stack := s.stack.setIfInBounds s.sp.val (s.pc + 2#16),
      sp := ⟨min (s.sp.val + 1) 16, by omega⟩, pc := zext16 nnn }
  | .seImm x nn => s.advance.skipIf (s.reg x == nn)
  | .sneImm x nn => s.advance.skipIf (s.reg x != nn)
  | .seReg x y => s.advance.skipIf (s.reg x == s.reg y)
  | .sneReg x y => s.advance.skipIf (s.reg x != s.reg y)
  | .ldImm x nn => s.advance.setReg x nn
  | .addImm x nn => s.advance.setReg x (addByte (s.reg x) nn)
  | .ldReg x y => s.advance.setReg x (s.reg y)
  | .orReg x y => s.advance.setReg x (s.reg x ||| s.reg y)
  | .andReg x y => s.advance.setReg x (s.reg x &&& s.reg y)
  | .xorReg x y => s.advance.setReg x (s.reg x ^^^ s.reg y)
  | .addReg x y =>
    (s.advance.setReg x (addByte (s.reg x) (s.reg y))).setFlag (addCarry (s.reg x) (s.reg y))
  | .subReg x y =>
    (s.advance.setReg x (subByte (s.reg x) (s.reg y))).setFlag (subNoBorrow (s.reg x) (s.reg y))
  | .shr x _ => (s.advance.setReg x (shrByte (s.reg x))).setFlag (shrOut (s.reg x))
  | .subnReg x y =>
    (s.advance.setReg x (subByte (s.reg y) (s.reg x))).setFlag (subNoBorrow (s.reg y) (s.reg x))
  | .shl x _ => (s.advance.setReg x (shlByte (s.reg x))).setFlag (shlOut (s.reg x))
  | .ldI nnn => s.advance.setI (zext16 nnn)
  | .jpV0 nnn => s.setPc (offsetTarget nnn (s.reg 0))
  | .rnd x nn => s.rndConsumed.advance.setReg x (s.rndByte &&& nn)
  | .drw x y n =>
    (s.advance.setPixels (s.pixels.draw (s.drwCells x y n)).1).setFlag
      (s.pixels.draw (s.drwCells x y n)).2
  | .skp x => s.advance.skipIf (s.keys.toList.getD (s.reg x).toNat false)
  | .sknp x => s.advance.skipIf (!s.keys.toList.getD (s.reg x).toNat false)
  | .ldVxDT x => s.advance.setReg x s.dt
  | .ldVxK x => { s with
      pc := s.lowestKey.elim s.pc fun _ => s.pc + 2#16,
      v := s.lowestKey.elim s.v fun k => s.v.set x.val (BitVec.ofNat 8 k.val) }
  | .ldDTVx x => s.advance.setDt (s.reg x)
  | .ldSTVx x => s.advance.setSt (s.reg x)
  | .addI x => (s.advance.setI (addIndex s.i (s.reg x))).setFlag (indexCarry s.i (s.reg x))
  | .ldF x => s.advance.setI (glyphAddress (s.reg x))
  | .ldB x => s.advance.storeBytes s.base (decimalDigits (s.reg x))
  | .ldMemVx x => s.advance.storeBytes s.base (s.regsUpTo x)
  | .ldVxMem x => s.advance.loadRegs x s.base

variable {i : Instr} {s t : State} {kind : FaultKind} {info : Nat}

/-! ## `exec` is the two of them -/

theorem rangeFault_eq_none {a n : Nat} : rangeFault a n = none ↔ n = 0 ∨ a + n ≤ 4096 := by
  rw [rangeFault, ite_eq_left_iff, ← accessOk_iff]
  simp

theorem rangeFault_eq_some {a n : Nat} : rangeFault a n = some (kind, info) ↔
    n ≠ 0 ∧ 4096 < a + n ∧ kind = .memOutOfBounds ∧ info = max a 4096 := by
  rw [rangeFault, Option.ite_none_left_eq_some, accessOk_iff, Option.some.injEq, Prod.mk.injEq,
    eq_comm (a := kind), eq_comm (a := info), ← and_assoc (a := n ≠ 0)]
  exact and_congr_left' (by omega)

theorem guardRange_of_none {a n : Nat} (h : rangeFault a n = none) :
    guardRange a n s t = .next t := guardRange_inside (rangeFault_eq_none.1 h)

theorem guardRange_of_some {a n : Nat} (h : rangeFault a n = some (kind, info)) :
    guardRange a n s t = raise kind info s := by
  obtain ⟨hn, hout, rfl, rfl⟩ := rangeFault_eq_some.1 h
  exact guardRange_outside hn hout

theorem keyFault_eq_none {b : Byte} : keyFault b = none ↔ b.toNat < 16 := by
  rw [keyFault, ite_eq_right_iff]
  simp only [reduceCtorEq, imp_false, Nat.not_lt]
  omega

theorem keyFault_eq_some {b : Byte} :
    keyFault b = some (kind, info) ↔
      15 < b.toNat ∧ kind = .keyIndexOutOfRange ∧ info = b.toNat := by
  rw [keyFault, Option.ite_none_right_eq_some, Option.some.injEq, Prod.mk.injEq,
    eq_comm (a := kind), eq_comm (a := info)]

theorem key_eq_getD (s : State) {b : Byte} (h : b.toNat < 16) :
    s.key ⟨b.toNat, h⟩ = s.keys.toList.getD b.toNat false := by
  simp [State.key, h]

theorem set_eq_setIfInBounds (stack : Vector Word 16) {k : Nat} (a : Word) (h : k < 16) :
    stack.set k a h = stack.setIfInBounds k a := by
  ext j hj
  rw [Vector.getElem_set, Vector.getElem_setIfInBounds]

/-- Where an instruction raises no fault it has its effect. -/
theorem exec_of_faultOf_none (h : faultOf i s = none) : exec i s = .next (effect i s) := by
  cases i with
  | ret =>
    have hsp : s.sp.val ≠ 0 := fun h0 => by simp [faultOf, h0] at h
    have hentry : s.sp.val - 1 < s.stack.toList.length := by rw [Vector.length_toList]; omega
    rw [exec_ret_pop s hsp, effect, List.getD_eq_getElem _ _ hentry, Vector.getElem_toList]
  | call nnn =>
    have hsp : s.sp.val < 16 := by
      have : s.sp.val ≠ 16 := fun h0 => by simp [faultOf, h0] at h
      omega
    have hroom : min (s.sp.val + 1) 16 = s.sp.val + 1 := by omega
    simp only [exec_call_push s nnn hsp, State.called, effect, hroom, set_eq_setIfInBounds]
  | drw | ldB | ldMemVx | ldVxMem => exact guardRange_of_none h
  | skp x =>
    have hk := keyFault_eq_none.1 h
    rw [exec_skp_key s (k := ⟨_, hk⟩) rfl, key_eq_getD, effect]
  | sknp x =>
    have hk := keyFault_eq_none.1 h
    rw [exec_sknp_key s (k := ⟨_, hk⟩) rfl, key_eq_getD, effect]
  | ldVxK x =>
    cases hk : s.lowestKey with
    | none => simp only [exec_ldVxK_hold s x hk, effect, hk, Option.elim]
    | some k => simp only [exec_ldVxK_take s x hk, effect, hk, Option.elim]; rfl
  | _ => rfl

/-- Where an instruction raises a fault, taking it is all that happens. -/
theorem exec_of_faultOf_some (h : faultOf i s = some (kind, info)) :
    exec i s = raise kind info s := by
  cases i with
  | ret =>
    obtain ⟨hsp, ⟨⟩⟩ := Option.ite_none_right_eq_some.1 h
    exact exec_ret_underflow s hsp
  | call nnn =>
    obtain ⟨hsp, ⟨⟩⟩ := Option.ite_none_right_eq_some.1 h
    exact exec_call_overflow s nnn hsp
  | drw | ldB | ldMemVx | ldVxMem => exact guardRange_of_some h
  | skp x =>
    obtain ⟨hk, rfl, rfl⟩ := keyFault_eq_some.1 h
    exact exec_skp_noKey s hk
  | sknp x =>
    obtain ⟨hk, rfl, rfl⟩ := keyFault_eq_some.1 h
    exact exec_sknp_noKey s hk
  | _ => cases h

/-- The two outcomes of an instruction. -/
theorem exec_cases (h : exec i s = .next t) : (faultOf i s = none ∧ t = effect i s) ∨
    ∃ kind info, faultOf i s = some (kind, info) ∧ t = s.latch ⟨kind, s.pc, info⟩ := by
  cases hf : faultOf i s with
  | none =>
    rw [exec_of_faultOf_none hf] at h
    exact .inl ⟨rfl, (Host.Outcome.next.inj h).symm⟩
  | some f =>
    rw [exec_of_faultOf_some hf] at h
    exact .inr ⟨f.1, f.2, rfl, (Host.Outcome.next.inj h).symm⟩

/-! ## What an effect changes, cell by cell -/

@[simp] theorem effect_keys : (effect i s).keys = s.keys := by
  cases i <;> simp [effect]

@[simp] theorem effect_font : (effect i s).font = s.font := by
  cases i <;> simp [effect]

@[simp] theorem effect_fault : (effect i s).fault = s.fault := by
  cases i <;> simp [effect]

theorem add_two_two (w : Word) : w + 2#16 + 2#16 = w + 4#16 := by
  rw [BitVec.add_assoc]; rfl

/-- The table of 10_state.md R25. -/
theorem effect_pc : (effect i s).pc = pcAfter i s := by
  cases i with
  | ldVxK x =>
    cases hk : s.lowestKey with
    | none => simp [effect, pcAfter, hk, lowestKey_none.1 hk]
    | some k =>
      have hdown : ¬ ∀ k, s.key k = false := fun hup => by simp [lowestKey_none.2 hup] at hk
      simp only [effect, pcAfter, hk, Option.elim, if_neg hdown]
  | _ => simp [effect, pcAfter, add_two_two, zext16, offsetTarget]

/-- The table of 10_state.md R22. -/
theorem effect_reg {r : RegIdx} (h : ¬ writesReg i r) : (effect i s).reg r = s.reg r := by
  cases i with
  | ldVxK x =>
    have hx : ¬ x.val = r.val := fun e => h (Fin.ext e.symm)
    cases hk : s.lowestKey <;> simp [effect, hk, State.reg, hx]
  | ret | call => rfl
  | _ => simp_all [effect, writesReg, eq_comm, vf]

/-- The bytes that an instruction stores (20_memory.md R59). -/
def stored (i : Instr) (s : State) : List Byte :=
  match i with
  | .ldB x => decimalDigits (s.reg x)
  | .ldMemVx x => s.regsUpTo x
  | _ => []

/-- Memory changes by the stored bytes alone. -/
theorem effect_mem : (effect i s).mem = s.mem.storeBytes s.font s.base (stored i s) := by
  cases i <;> simp [effect, stored, Memory.storeBytes]

/-- Where no fault is raised, all the bytes stored are inside the memory (20_memory.md R65). -/
theorem stored_inside (h : faultOf i s = none) (hi : stored i s ≠ []) :
    s.base + (stored i s).length ≤ 4096 := by
  cases i with
  | ldB => exact (rangeFault_eq_none.1 h).resolve_left (by decide)
  | ldMemVx x =>
    rw [stored, length_regsUpTo]
    exact (rangeFault_eq_none.1 h).resolve_left (by omega)
  | _ => exact absurd rfl hi

theorem storesTo_iff {a : Nat} :
    storesTo i s a ↔ s.base ≤ a ∧ a < s.base + (stored i s).length := by
  cases i <;> simp [storesTo, stored]

/-! ## The statements -/

/-- Settles O13: the next state is the one with the effect, or the one with the fault taken. -/
theorem everyInstructionAnswersANextState : Obligations.EveryInstructionAnswersANextState := by
  intro i s
  cases hf : faultOf i s with
  | none => exact ⟨_, exec_of_faultOf_none hf⟩
  | some f => exact ⟨_, exec_of_faultOf_some hf⟩

/-- Settles O47: a taken fault shows in the latch, so the instruction had its effect. -/
theorem pcAfterEveryInstruction : Obligations.PcAfterEveryInstruction := by
  intro i s t hok h htok
  obtain ⟨-, rfl⟩ | ⟨kind, info, -, rfl⟩ := exec_cases h
  · exact effect_pc
  · simp [State.latch, hok] at htok

/-- Settles O48: an effect writes the registers of the table, and a taken fault none. -/
theorem onlyNamedRegistersAreWritten : Obligations.OnlyNamedRegistersAreWritten := by
  intro i s t r h hr
  obtain ⟨-, rfl⟩ | ⟨kind, info, -, rfl⟩ := exec_cases h
  · exact effect_reg hr
  · exact State.reg_latch s _ r

/-- Settles O50: an effect stores its bytes from the base on, and a taken fault none. -/
theorem memoryChangesOnlyInTheStoredBytes : Obligations.MemoryChangesOnlyInTheStoredBytes := by
  intro i s t a h ha
  obtain ⟨-, rfl⟩ | ⟨kind, info, -, rfl⟩ := exec_cases h
  · rw [storesTo_iff] at ha
    rw [State.read, effect_mem, effect_font]
    exact Memory.read_storeBytes_outside _ _ _ _ (by omega)
  · exact State.read_latch s _ a

/-- Settles O49: cell by cell over the effects; of a taken fault only the instruction is left to
name. -/
theorem specialCellsChangeOnlyByTheirInstructions :
    Obligations.SpecialCellsChangeOnlyByTheirInstructions := by
  intro i s t h
  obtain ⟨-, rfl⟩ | ⟨kind, info, hf, rfl⟩ := exec_cases h
  · refine ⟨effect_keys, effect_font, ?_⟩
    cases i <;> simp [effect]
  · cases i <;> simp_all [faultOf]

end Sys2Proof.Machine
end

section
/-! SUPPORT. Steps and commands: that every step answers a next state, what STEP's operand reaches,
and the statements about steps and commands. -/

namespace Sys2Proof.Machine

variable {s t : State}

/-! ## Every step -/

/-- A step always answers a next state (60_exceptions.md R201; log 1). -/
theorem step_total (s : State) : ∃ t, step s = .next t := by
  by_cases hok : s.fault = none
  · by_cases hpc : s.pc.toNat ≤ 4094
    · cases hd : decode s.fetchBytes with
      | ok p =>
        rw [step_instr (i := p.1) (rest := p.2) hok hpc hd]
        exact everyInstructionAnswersANextState p.1 s
      | error e => exact ⟨_, step_miss hok hpc hd⟩
    · exact ⟨_, step_fetchFault hok (by omega)⟩
  · exact ⟨_, step_latched hok⟩

/-- The faults of a STEP, with the offending value: that of the fetch, and those of the instructions
(60_exceptions.md R200, R210). -/
def StepRaises (s : State) (kind : FaultKind) (info : Nat) : Prop :=
  (4094 < s.pc.toNat ∧ kind = .memOutOfBounds ∧ info = max s.pc.toNat 4096) ∨
    (s.pc.toNat ≤ 4094 ∧ ∃ i, faultOf i s = some (kind, info))

/-- What a step from an empty latch can do: take a fault, have the effect of an instruction, or pass
over a decode miss. -/
theorem step_outcomes (hok : s.fault = none) (h : step s = .next t) :
    (∃ kind info, StepRaises s kind info ∧ t = { s with fault := some ⟨kind, s.pc, info⟩ }) ∨
    (s.pc.toNat ≤ 4094 ∧ ∃ i, faultOf i s = none ∧ t = effect i s) ∨
    (s.pc.toNat ≤ 4094 ∧ t = s.advance) := by
  obtain ⟨hf, -⟩ | ⟨-, hpc, rfl⟩ | ⟨-, hpc, i, -, hexec⟩ | ⟨-, hpc, -, rfl⟩ := step_cases h
  · exact absurd hok hf
  · exact .inl ⟨_, _, .inl ⟨hpc, rfl, rfl⟩, rfl⟩
  · obtain ⟨hf, rfl⟩ | ⟨kind, info, hf, rfl⟩ := exec_cases hexec
    · exact .inr (.inl ⟨hpc, i, hf, rfl⟩)
    · exact .inl ⟨kind, info, .inr ⟨hpc, i, hf⟩, State.latch_empty s _ hok⟩
  · exact .inr (.inr ⟨hpc, rfl⟩)

/-- Settles O12: only a taken fault sets the latch, and it changes nothing else. -/
theorem stepFaultsAreAllOrNothing : Obligations.StepFaultsAreAllOrNothing := by
  intro s hok
  obtain ⟨t, h⟩ := step_total s
  refine ⟨t, h, ?_⟩
  obtain ⟨kind, info, -, rfl⟩ | ⟨-, i, -, rfl⟩ | ⟨-, rfl⟩ := step_outcomes hok h
  · exact .inr ⟨kind, info, rfl⟩
  · exact .inl (effect_fault.trans hok)
  · exact .inl hok

/-! ## The operand of STEP -/

theorem faultOf_rndIn (i : Instr) (s : State) (r : Option Byte) :
    faultOf i { s with rndIn := r } = faultOf i s := by
  cases i <;> rfl

/-- No effect but RND's reads or changes the operand. -/
theorem effect_rndIn {i : Instr} (hi : ∀ x nn, i ≠ .rnd x nn) (s : State) (r : Option Byte) :
    effect i { s with rndIn := r } = { effect i s with rndIn := r } ∧
      (effect i s).rndIn = s.rndIn := by
  have skip (c : Bool) : ({ s with rndIn := r } : State).advance.skipIf c =
      { s.advance.skipIf c with rndIn := r } := by
    simp only [advance_skipIf]
  cases i with
  | rnd x nn => exact absurd rfl (hi x nn)
  | seImm | sneImm | seReg | sneReg | skp | sknp => exact ⟨skip _, by simp [effect]⟩
  | _ => exact ⟨rfl, rfl⟩

/-- A STEP with an operand, from the step of the state that presents it. -/
theorem stepCommand_of_next {rnd : Byte} (h : step { s with rndIn := some rnd } = .next t) :
    stepCommand rnd s = .next { t with rndIn := s.rndIn } := by
  rw [stepCommand, h]

/-- With a fault latched a STEP has no effect (60_exceptions.md R202). -/
theorem stepCommand_latched (rnd : Byte) (hf : s.fault ≠ none) : stepCommand rnd s = .next s := by
  have h : step { s with rndIn := some rnd } = .next { s with rndIn := some rnd } := step_latched hf
  rw [stepCommand, h]

/-- A step that is no RND carries the operand along unread. -/
theorem step_rndIn (r : Option Byte) (h : step s = .next t)
    (hrnd : s.fault = none → s.pc.toNat ≤ 4094 →
      ∀ x nn, decode s.fetchBytes ≠ .ok (.rnd x nn, [])) :
    step { s with rndIn := r } = .next { t with rndIn := r } ∧ t.rndIn = s.rndIn := by
  obtain ⟨hf, rfl⟩ | ⟨hok, hpc, rfl⟩ | ⟨hok, hpc, i, hd, hexec⟩ | ⟨hok, hpc, ⟨e, hd⟩, rfl⟩ :=
    step_cases h
  · exact ⟨step_latched hf, rfl⟩
  · exact ⟨step_fetchFault hok hpc, rfl⟩
  · have hi : ∀ x nn, i ≠ .rnd x nn := by
      rintro x nn rfl
      exact hrnd hok hpc x nn hd
    have hstep : step { s with rndIn := r } = exec i { s with rndIn := r } := step_instr hok hpc hd
    rw [hstep]
    obtain ⟨hf, rfl⟩ | ⟨kind, info, hf, rfl⟩ := exec_cases hexec
    · obtain ⟨heff, hkept⟩ := effect_rndIn hi s r
      rw [exec_of_faultOf_none ((faultOf_rndIn i s r).trans hf), heff]
      exact ⟨rfl, hkept⟩
    · rw [exec_of_faultOf_some ((faultOf_rndIn i s r).trans hf), State.latch_empty s _ hok]
      exact ⟨raise_ok _ _ hok, rfl⟩
  · exact ⟨step_miss hok hpc hd, rfl⟩

/-- Settles O46: RND takes the operand; every other step carries it along. -/
theorem stepOperandIsReadOnlyByRnd : Obligations.StepOperandIsReadOnlyByRnd := by
  intro s
  refine ⟨fun x nn rnd hok hpc hd => ?rnd, fun hrnd rnd => ?other⟩
  case rnd =>
    have hpc' : s.pc.toNat ≤ 4094 := by omega
    have hstep : step { s with rndIn := some rnd } =
        exec (.rnd x nn) { s with rndIn := some rnd } := step_instr hok hpc' hd
    exact ⟨_, stepCommand_of_next (hstep.trans (exec_rnd x nn _)), rfl, reg_setReg_same _ x _,
      fun r hr => reg_setReg_other _ _ hr⟩
  case other =>
    obtain ⟨t, h⟩ := step_total s
    obtain ⟨hrun, hkept⟩ := step_rndIn (some rnd) h fun hok hpc => hrnd hok (by omega)
    rw [h]
    refine (stepCommand_of_next hrun).trans ?_
    rw [← hkept]

/-! ## Commands -/

/-- A timer is counted down by 1 unless it is 0 (60_exceptions.md R214). -/
@[simp] theorem toNat_tickTimer (b : Byte) : (tickTimer b).toNat = b.toNat - 1 := by
  unfold tickTimer
  split
  · subst b; rfl
  · bv_omega

/-- A write of one slot of the key latch leaves the others (45_external_commands.md R172). -/
theorem key_setKey (s : State) (k j : KeyIdx) (b : Bool) :
    ({ s with keys := s.keys.set k.val b } : State).key j = if k = j then b else s.key j := by
  simp [State.key, Vector.getElem_set, Fin.ext_iff]

/-- A program that fits (45_external_commands.md R171). -/
theorem load_fits (s : State) {bytes : List Byte} (h : bytes.length ≤ 3584) :
    s.load bytes = s.storeBytes 0x200 bytes := if_neg (Nat.not_lt.2 h)

/-- A program that does not fit (60_exceptions.md R207). -/
theorem load_oversize (s : State) {bytes : List Byte} (h : 3584 < bytes.length) :
    s.load bytes = s.latch ⟨.programTooLarge, 0#16, bytes.length⟩ := if_pos h

/-- Settles O41: each timer is counted down unless it is 0. -/
theorem tickDecrementsNonzeroTimers : Obligations.TickDecrementsNonzeroTimers := by
  intro s
  exact ⟨_, rfl, rfl, toNat_tickTimer _, toNat_tickTimer _⟩

/-- Settles O42: one slot of the key latch is written. -/
theorem keyCommandsSetOneSlot : Obligations.KeyCommandsSetOneSlot := by
  intro k s
  have written (b : Bool) : ({ s with keys := s.keys.set k.val b } : State).key k = b :=
    (key_setKey s k k b).trans (if_pos rfl)
  have others (b : Bool) (j : KeyIdx) (h : j ≠ k) :
      ({ s with keys := s.keys.set k.val b } : State).key j = s.key j :=
    (key_setKey s k j b).trans (if_neg h.symm)
  exact ⟨⟨_, rfl, rfl, written true, others true⟩, ⟨_, rfl, rfl, written false, others false⟩⟩

/-- Settles O43: a store of the program, or the fault of an oversize one. -/
theorem loadWritesTheProgramOnly : Obligations.LoadWritesTheProgramOnly := by
  intro bytes s
  refine ⟨fun h => ⟨s.storeBytes 0x200 bytes, congrArg _ (load_fits s h), rfl,
      fun hm k b hk => ?loaded, fun a ha => read_storeBytes_outside ha⟩,
    fun h hok => ?fault, fun h hf => ?latched⟩
  case loaded =>
    obtain ⟨hlt, rfl⟩ := List.getElem?_eq_some_iff.1 hk
    exact read_storeBytes_inside hm (by omega) hlt
  case fault => rw [command, load_oversize s h, State.latch_empty s _ hok]
  case latched => rw [command, load_oversize s h, State.latch_full s _ hf]

/-- Settles O44: the cells of the reset state, with nothing listed in memory. -/
theorem resetGivesTheResetValues : Obligations.ResetGivesTheResetValues := by
  intro s
  refine ⟨_, rfl, rfl, fun r => ?regs, rfl, rfl, rfl, fun j => ?stack, fun a => ?font,
    fun a ha => ?zero, rfl, rfl, fun p => ?pixels, fun k => ?keys, rfl⟩
  case regs => simp [State.reg, State.resetCommand, State.reset]
  case stack => simp [State.resetCommand, State.reset]
  case font => exact (read_nil rfl _).trans (Memory.unlisted_font a)
  case zero => exact (read_nil rfl _).trans (Memory.unlisted_zero ha)
  case pixels => exact Display.get_clear p
  case keys => simp [State.key, State.resetCommand, State.reset]

/-- Settles O45: TICK, the keys and observe do not touch the latch, a LOAD keeps the one that is
there, and a STEP does nothing. -/
theorem onlyResetClearsTheFaultLatch : Obligations.OnlyResetClearsTheFaultLatch := by
  intro c s t hf h
  have hstep (rnd : Byte) : command (.step rnd) s = .next s := stepCommand_latched rnd hf
  refine ⟨fun hc => ?kept, ?cleared, hstep⟩
  case cleared => rintro rfl; cases h; rfl
  case kept =>
    cases c with
    | reset => exact absurd rfl hc
    | step rnd => rw [Host.Outcome.next.inj ((hstep rnd).symm.trans h)]
    | load bytes =>
      cases h
      by_cases hfits : bytes.length ≤ 3584
      · rw [load_fits s hfits, State.storeBytes_fault]
      · rw [load_oversize s (by omega), State.latch_full s _ hf]
    | tick | keyDown | keyUp | observe => cases h; rfl

end Sys2Proof.Machine
end

section
/-! SUPPORT. Invariants: what is kept by every step and command if it is kept by each thing that
they can do, and the three invariants of the machine, from reset on. -/

namespace Sys2Proof.Machine

open Sys2Proof.Statement

/-! ## Keeping a predicate -/

section Keeps

variable {P : State → Prop}

/-- What every taken fault, every effect and the advance keep, every step keeps. -/
theorem step_keeps
    (hraise : ∀ s kind info, P s → s.fault = none → StepRaises s kind info →
      P { s with fault := some ⟨kind, s.pc, info⟩ })
    (heffect : ∀ i s, P s → s.fault = none → s.pc.toNat ≤ 4094 → faultOf i s = none →
      P (effect i s))
    (hadvance : ∀ s, P s → s.fault = none → s.pc.toNat ≤ 4094 → P s.advance)
    (s t : State) (hs : P s) (h : step s = .next t) : P t := by
  by_cases hok : s.fault = none
  · obtain ⟨kind, info, hf, rfl⟩ | ⟨hpc, i, hf, rfl⟩ | ⟨hpc, rfl⟩ := step_outcomes hok h
    · exact hraise s kind info hs hok hf
    · exact heffect i s hs hok hpc hf
    · exact hadvance s hs hok hpc
  · rw [step_latched hok] at h
    cases h
    exact hs

/-- What every step keeps, and RESET, LOAD and a write of the cells that the other commands touch,
every command keeps. -/
theorem command_keeps
    (hstep : ∀ s t, P s → step s = .next t → P t)
    (hreset : ∀ s : State, P s.resetCommand)
    (hload : ∀ (s : State) bytes, P s → P (s.load bytes))
    (hcells : ∀ (s : State) dt st keys rndIn, P s →
      P { s with dt := dt, st := st, keys := keys, rndIn := rndIn })
    (c : Command) (s t : State) (hs : P s) (h : command c s = .next t) : P t := by
  cases c with
  | reset => cases h; exact hreset s
  | load bytes => cases h; exact hload s bytes hs
  | step rnd =>
    obtain ⟨u, hu⟩ := step_total { s with rndIn := some rnd }
    obtain rfl := Host.Outcome.next.inj ((stepCommand_of_next hu).symm.trans h)
    have hpresented : P { s with rndIn := some rnd } := hcells s s.dt s.st s.keys _ hs
    exact hcells u u.dt u.st u.keys _ (hstep _ u hpresented hu)
  | tick => cases h; exact hcells s _ _ s.keys s.rndIn hs
  | keyDown k | keyUp k => cases h; exact hcells s s.dt s.st _ s.rndIn hs
  | observe => cases h; exact hs

end Keeps

/-! ## The canonical form of memory (log 22) -/

/-- The bytes that an effect stores are inside the memory. -/
theorem memWf_effect {i : Instr} {s : State} (hs : s.memWf = true) (hf : faultOf i s = none) :
    (effect i s).memWf = true := by
  have hmem : (effect i s).memWf = (s.storeBytes s.base (stored i s)).memWf :=
    State.memWf_congr effect_mem effect_font
  rw [hmem]
  by_cases hnil : stored i s = []
  · rw [hnil]; exact hs
  · exact memWf_storeBytes hs (stored_inside hf hnil)

/-- A program that fits ends at or below 4096; one that does not stores nothing. -/
theorem memWf_load {s : State} (bytes : List Byte) (hs : s.memWf = true) :
    (s.load bytes).memWf = true := by
  by_cases hfits : bytes.length ≤ 3584
  · rw [load_fits s hfits]
    exact memWf_storeBytes hs (by omega)
  · rw [load_oversize s (by omega), State.memWf_latch, hs]

theorem step_keeps_memWf (s t : State) : s.memWf = true → step s = .next t → t.memWf = true :=
  step_keeps (P := fun s => s.memWf = true) (fun _ _ _ hs _ _ => hs)
    (fun _ _ hs _ _ hf => memWf_effect hs hf) (fun _ hs _ _ => hs) s t

/-- Settles O51: an effect stores inside the address space, and so does a LOAD that fits. -/
theorem canonicalMemoryIsKept : Obligations.CanonicalMemoryIsKept :=
  ⟨step_keeps_memWf, command_keeps step_keeps_memWf (fun _ => rfl) (fun _ => memWf_load)
    fun _ _ _ _ _ hs => hs⟩

/-! ## The fault latch (60_exceptions.md R200 to R206) -/

theorem latchConsistent_of_ok {s : State} (h : s.fault = none) : s.latchConsistent := by
  simp [State.latchConsistent, h]

/-- The agreement looks at the latch, `pc`, `I`, `sp` and the registers alone. -/
theorem latchConsistent_congr {s t : State} (hf : t.fault = s.fault) (hpc : t.pc = s.pc)
    (hi : t.i = s.i) (hsp : t.sp = s.sp) (hv : t.v = s.v) (hs : s.latchConsistent) :
    t.latchConsistent := by
  unfold State.latchConsistent at *
  rw [hf, hpc, hi, hsp]
  simpa only [State.reg_congr hv] using hs

/-- A data access out of range names the lowest address above 4095; no access is longer than 16
bytes (60_exceptions.md R205). -/
theorem latchConsistent_of_rangeFault {s : State} {kind : FaultKind} {info n : Nat}
    (hpc : s.pc.toNat ≤ 4094) (hn : n ≤ 16) (h : rangeFault s.i.toNat n = some (kind, info)) :
    State.latchConsistent { s with fault := some ⟨kind, s.pc, info⟩ } := by
  obtain ⟨-, hout, rfl, rfl⟩ := rangeFault_eq_some.1 h
  have hi : 4095 < s.i.toNat + 15 := by omega
  exact ⟨rfl, .inr ⟨hpc, hi, rfl⟩⟩

/-- A fault that a step raises is one that the table allows with the cells of the state
(60_exceptions.md R203 to R206). -/
theorem latchConsistent_of_raises {s : State} {kind : FaultKind} {info : Nat}
    (h : StepRaises s kind info) :
    State.latchConsistent { s with fault := some ⟨kind, s.pc, info⟩ } := by
  obtain ⟨hpc, rfl, rfl⟩ | ⟨hpc, i, hf⟩ := h
  · exact ⟨rfl, .inl ⟨hpc, rfl⟩⟩
  · cases i with
    | ret | call =>
      obtain ⟨hsp, ⟨⟩⟩ := Option.ite_none_right_eq_some.1 hf
      exact ⟨rfl, rfl, Fin.ext hsp⟩
    | drw | ldMemVx | ldVxMem => exact latchConsistent_of_rangeFault hpc (by omega) hf
    | ldB => exact latchConsistent_of_rangeFault hpc (by decide) hf
    | skp x | sknp x =>
      obtain ⟨hlarge, rfl, rfl⟩ := keyFault_eq_some.1 hf
      exact ⟨rfl, hlarge, x, rfl⟩
    | _ => cases hf

/-- An oversize LOAD names the length of its program (60_exceptions.md R207). -/
theorem latchConsistent_load {s : State} (bytes : List Byte) (hs : s.latchConsistent) :
    (s.load bytes).latchConsistent := by
  by_cases hfits : bytes.length ≤ 3584
  · rw [load_fits s hfits]
    exact latchConsistent_congr rfl rfl rfl rfl rfl hs
  · rw [load_oversize s (by omega)]
    by_cases hok : s.fault = none
    · rw [State.latch_empty s _ hok]
      exact ⟨rfl, Nat.not_le.1 hfits⟩
    · rwa [State.latch_full s _ hok]

theorem step_keeps_latchConsistent (s t : State) :
    s.latchConsistent → step s = .next t → t.latchConsistent :=
  step_keeps (fun _ _ _ _ _ hf => latchConsistent_of_raises hf)
    (fun _ _ _ hok _ _ => latchConsistent_of_ok (effect_fault.trans hok))
    (fun _ _ hok _ => latchConsistent_of_ok hok) s t

/-- Settles O52: a taken fault names the cells that the step found and left; nothing but a step or a
LOAD sets the latch, and while it is set no command but RESET touches those cells. -/
theorem faultLatchStaysConsistent : Obligations.FaultLatchStaysConsistent :=
  ⟨step_keeps_latchConsistent, command_keeps step_keeps_latchConsistent
    (fun _ => latchConsistent_of_ok rfl) (fun _ => latchConsistent_load)
    fun _ _ _ _ _ hs => latchConsistent_congr rfl rfl rfl rfl rfl hs⟩

/-! ## The bounds of `pc` and of the return addresses (40_control_flow.md R102, R109) -/

theorem pcBounded_congr {s t : State} (hpc : t.pc = s.pc) (hstack : t.stack = s.stack)
    (hs : s.pcBounded) : t.pcBounded := by
  rwa [State.pcBounded, hpc, hstack]

/-- Every entry that a RET can pop is bounded, and so is the 0 in place of one that is not there. -/
theorem stack_getD_le {s : State} (hs : s.pcBounded) (k : Nat) :
    (s.stack.toList.getD k 0#16).toNat ≤ 4096 := by
  by_cases hk : k < 16
  · have hlen : k < s.stack.toList.length := by rwa [Vector.length_toList]
    rw [List.getD_eq_getElem _ _ hlen, Vector.getElem_toList]
    exact hs.2 ⟨k, hk⟩
  · rw [List.getD_eq_default _ _ (by rw [Vector.length_toList]; omega)]
    decide

/-- The highest `pc` is the target of JP V0,nnn, at most 4095 + 255 (40_control_flow.md R109). -/
theorem pcAfter_le {i : Instr} {s : State} (hs : s.pcBounded) (hpc : s.pc.toNat ≤ 4094) :
    (pcAfter i s).toNat ≤ 0x10FE := by
  have hnext : (s.pc + 2#16).toNat ≤ 0x10FE := by bv_omega
  have hskip : (s.pc + 4#16).toNat ≤ 0x10FE := by bv_omega
  cases i with
  | ret => exact (stack_getD_le hs _).trans (by decide)
  | jp nnn | call nnn => rw [pcAfter, BitVec.toNat_ofNat]; omega
  | jpV0 nnn => rw [pcAfter, BitVec.toNat_ofNat]; omega
  | seImm | sneImm | seReg | sneReg | skp | sknp => rw [pcAfter]; split <;> assumption
  | ldVxK => rw [pcAfter]; split <;> [exact hs.1; exact hnext]
  | _ => exact hnext

/-- A CALL pushes an address of at most 4096, and no other instruction writes the stack. -/
theorem effect_stack_le {i : Instr} {s : State} (hs : s.pcBounded) (hpc : s.pc.toNat ≤ 4094)
    (j : Fin 16) : ((effect i s).stack[j]).toNat ≤ 4096 := by
  cases i with
  | call nnn =>
    rw [effect, Fin.getElem_fin, Vector.getElem_setIfInBounds]
    split
    · bv_omega
    · exact hs.2 j
  | _ => simpa [effect] using hs.2 j

theorem step_keeps_pcBounded (s t : State) : s.pcBounded → step s = .next t → t.pcBounded :=
  step_keeps (fun _ _ _ hs _ _ => hs)
    (fun _ _ hs _ hpc _ => ⟨effect_pc ▸ pcAfter_le hs hpc, effect_stack_le hs hpc⟩)
    (fun s hs _ hpc => ⟨by rw [State.advance_pc]; bv_omega, hs.2⟩) s t

/-- `pc` and the return addresses are within the bounds at reset. -/
theorem pcBounded_reset : State.reset.pcBounded := by
  unfold State.pcBounded
  decide

theorem pcBounded_load {s : State} (bytes : List Byte) (hs : s.pcBounded) :
    (s.load bytes).pcBounded := by
  by_cases hfits : bytes.length ≤ 3584
  · rw [load_fits s hfits]
    exact hs
  · rw [load_oversize s (by omega)]
    exact pcBounded_congr (State.latch_pc s _) (State.latch_stack s _) hs

/-- Settles O53: the table of `pc` is within the bound where the step is, and a CALL from there
pushes at most 4096. -/
theorem pcAndReturnAddressesStayBounded : Obligations.PcAndReturnAddressesStayBounded :=
  ⟨step_keeps_pcBounded, command_keeps step_keeps_pcBounded (fun _ => pcBounded_reset)
    (fun _ => pcBounded_load) fun _ _ _ _ _ hs => hs⟩

/-- Settles O54: nothing is listed in memory, no fault is latched, and the bounds are met. -/
theorem invariantsHoldAtReset : Obligations.InvariantsHoldAtReset :=
  ⟨rfl, latchConsistent_of_ok rfl, pcBounded_reset⟩

end Sys2Proof.Machine
end
